-- ==== Sys2Proof/Word.lean ====
section
/-! DEFINITION. The word types of CORE and their plainest arithmetic (spec/00_scope.md R9, R10, R12). -/

namespace Sys2Proof

/-- The addressable unit of a message, 8 bits (20_memory.md R61). -/
abbrev Byte := BitVec 8

/-- A 32-bit unsigned word (00_scope.md R5). -/
abbrev Word := BitVec 32

/-- Format CMD, the 10-bit command word `cw` (30_encoding.md R91). -/
abbrev CmdWord := BitVec 10

/-- Format BEAT, the 9-bit output beat: bit 8 is `last`, bits 7:0 are `data` (30_encoding.md R96). -/
abbrev Beat := BitVec 9

/-- 32-bit addition modulo 2^32; no carry is recorded (00_scope.md R10). -/
def add32 (x y : Word) : Word := x + y

/-- Bitwise NOT of a 32-bit word (00_scope.md R10). -/
def not32 (x : Word) : Word := ~~~x

/-- 64-bit addition modulo 2^64, used by the bit counter LEN alone (00_scope.md R12). -/
def add64 (x y : BitVec 64) : BitVec 64 := x + y

end Sys2Proof
end

