-- ==== Sys2Proof/Syntax.lean ====
section
/-! DEFINITION. The operations of CORE, one constructor per row of spec/opcode_table.json (30_encoding.md R105).
CORE fetches no instructions: an operation is selected by a host request or by the state. -/

namespace Sys2Proof

/-- The fourteen operations. Every operand has exactly the width of its field, so no operand value is out of range. -/
inductive Instr where
  /-- INIT: begin a computation; `hex` is cw[0], false for `hash`, true for `hash_hex` (R92, R123). -/
  | init (hex : Bool)
  /-- DATA: the next message byte, cw[7:0] (R93, R124). -/
  | data (d : Byte)
  /-- FINAL: the end of the message (R94, R125). -/
  | final
  /-- PADZ: append one zero byte (R145). -/
  | padz
  /-- PADZEND: the zero fill is complete (R146). -/
  | padzend
  /-- PADL: append one byte of the length field (R147). -/
  | padl
  /-- BLKSTART: copy A to D into a to d; never selected on its own, part of PutByte (R161). -/
  | blkstart
  /-- STEPQ0: the step of quadrant 0 at position `r` = i[3:0] (R100, R163). -/
  | stepq0 (r : BitVec 4)
  /-- STEPQ1: the step of quadrant 1 at position `r` (R100, R164). -/
  | stepq1 (r : BitVec 4)
  /-- STEPQ2: the step of quadrant 2 at position `r` (R100, R165). -/
  | stepq2 (r : BitVec 4)
  /-- STEPQ3: the step of quadrant 3 at position `r` (R100, R166). -/
  | stepq3 (r : BitVec 4)
  /-- FEED: add the working variables into the state (R168). -/
  | feed
  /-- POP: take the next output beat (R193). -/
  | pop
  /-- RST: reset (R240). -/
  | rst
deriving DecidableEq, Repr

/-- The operation's name in spec/opcode_table.json. -/
def Instr.mnemonic : Instr → String
  | .init _ => "INIT"
  | .data _ => "DATA"
  | .final => "FINAL"
  | .padz => "PADZ"
  | .padzend => "PADZEND"
  | .padl => "PADL"
  | .blkstart => "BLKSTART"
  | .stepq0 _ => "STEPQ0"
  | .stepq1 _ => "STEPQ1"
  | .stepq2 _ => "STEPQ2"
  | .stepq3 _ => "STEPQ3"
  | .feed => "FEED"
  | .pop => "POP"
  | .rst => "RST"

end Sys2Proof
end

