-- ==== Sys2Proof/WellFormed.lean ====
section
/-! DEFINITION. Which operations can be selected on their own. Operand ranges need no check: the operand types of
Syntax.lean have the fields' widths. -/

namespace Sys2Proof

/-- BLKSTART is "not an operation of its own; it is the tail of whichever PutByte … is performed with fill = 63"
(30_encoding.md R105, 42_compression.md R161), so it is the one term that no selection gives. -/
def Instr.wellFormed : Instr → Bool
  | .blkstart => false
  | .init _ | .data _ | .final | .padz | .padzend | .padl => true
  | .stepq0 _ | .stepq1 _ | .stepq2 _ | .stepq3 _ | .feed | .pop | .rst => true

end Sys2Proof
end

