-- ==== Sys2Proof/Decode.lean ====
section
/-! DEFINITION. Decoding of the four formats that select an operation (CMD, EVENT, SEQ, STEP) and, after it, the
encoder written from the same tables (30_encoding.md R90 to R95, R100, R105, R106). -/

namespace Sys2Proof

/-- A selecting word in its format. -/
inductive Encoded where
  /-- Format CMD: a command word on the command port. -/
  | cmd (cw : CmdWord)
  /-- Format EVENT: the request vector `req`; bit 1 the reset input, bit 0 the pop request. -/
  | req (r : BitVec 2)
  /-- Format SEQ: the selector `sel`; bits 5 to 3 the phases PADZ, PADL, COMP, bit 2 fill = 56, bit 1 i = 64,
  bit 0 fill = 63. -/
  | sel (x : BitVec 6)
  /-- Format STEP: the round index i[5:0]. -/
  | step (i : BitVec 6)
deriving DecidableEq, Repr

/-- Why a word selects no operation. -/
inductive DecodeError where
  /-- CMD: `op` = 3 (R106). -/
  | reservedOp
  /-- CMD: INIT with `arg[7:1]` not 0 (R106). -/
  | reservedInitBits
  /-- CMD: FINAL with `arg` not 0 (R106). -/
  | reservedFinalBits
  /-- EVENT: neither request is made. -/
  | noRequest
  /-- SEQ: no internal operation is selected with sel[5:3] = 0 (R105). -/
  | noSelection
  /-- SEQ: phase COMP with i not 64; the step operation is read from format STEP (R105). -/
  | readStepIndex
  /-- SEQ: truth values that no state gives: two phases at once, or fill = 56 together with fill = 63 (R105). -/
  | impossibleSelector
deriving DecidableEq, Repr

/-- What a word decodes to. -/
inductive Decoded where
  | ok (i : Instr)
  | rejected (why : DecodeError)
deriving DecidableEq, Repr

/-- The instruction, where the word has one. -/
def Decoded.instr? : Decoded → Option Instr
  | .ok i => some i
  | .rejected _ => none

/-- Match `x` against a row's match value under its mask. -/
def matchesRow {n : Nat} (x mask val : BitVec n) : Bool := x &&& mask == val

/-- Decoding a command word; total (R95). -/
def decodeCmd (cw : CmdWord) : Decoded :=
  let op := cw.extractLsb' 8 2
  let arg := cw.extractLsb' 0 8
  if op = 0#2 then
    if arg.extractLsb' 1 7 = 0#7 then .ok (.init (arg.getLsbD 0)) else .rejected .reservedInitBits
  else if op = 1#2 then .ok (.data arg)
  else if op = 2#2 then
    if arg = 0#8 then .ok .final else .rejected .reservedFinalBits
  else .rejected .reservedOp

/-- Decoding the request vector: reset wins over a simultaneous pop request (R105, 60_exceptions.md R213). -/
def decodeReq (r : BitVec 2) : Decoded :=
  if matchesRow r 0x2#2 0x2#2 then .ok .rst
  else if matchesRow r 0x3#2 0x1#2 then .ok .pop
  else .rejected .noRequest

/-- Can a state give this selector? At most one phase, and fill has one value (R105). -/
def selectorPossible (x : BitVec 6) : Bool :=
  let ph := x.extractLsb' 3 3
  (ph == 0#3 || ph == 1#3 || ph == 2#3 || ph == 4#3) && !(x.getLsbD 2 && x.getLsbD 0)

/-- Decoding the selector (R105). The row BLKSTART is the tail of a PutByte and is selected by no vector of its own. -/
def decodeSel (x : BitVec 6) : Decoded :=
  if !selectorPossible x then .rejected .impossibleSelector
  else if matchesRow x 0x24#6 0x20#6 then .ok .padz
  else if matchesRow x 0x24#6 0x24#6 then .ok .padzend
  else if matchesRow x 0x10#6 0x10#6 then .ok .padl
  else if matchesRow x 0x0A#6 0x0A#6 then .ok .feed
  else if x.getLsbD 3 then .rejected .readStepIndex
  else .rejected .noSelection

/-- Decoding the round index: `q` = i[5:4] selects the operation, `r` = i[3:0] is its position; no value is reserved
(R100, R107). -/
def decodeStep (i : BitVec 6) : Instr :=
  let q := i.extractLsb' 4 2
  let r := i.extractLsb' 0 4
  if q = 0#2 then .stepq0 r
  else if q = 1#2 then .stepq1 r
  else if q = 2#2 then .stepq2 r
  else .stepq3 r

/-- Decoding in any format; total. -/
def decode : Encoded → Decoded
  | .cmd cw => decodeCmd cw
  | .req r => decodeReq r
  | .sel x => decodeSel x
  | .step i => .ok (decodeStep i)

/-- The word of INIT: `00 0000000h` (R92). -/
def initWord (hex : Bool) : CmdWord := 0x00#9 ++ BitVec.ofBool hex

/-- The word of DATA: `01 dddddddd` (R93). -/
def dataWord (d : Byte) : CmdWord := 0x1#2 ++ d

/-- The word of FINAL: `10 00000000` (R94). -/
def finalWord : CmdWord := 0x200#10

/-- The selecting word of an operation; bits its row leaves free are 0 (R92 to R94, R100, R105). -/
def encode : Instr → Encoded
  | .init hex => .cmd (initWord hex)
  | .data d => .cmd (dataWord d)
  | .final => .cmd finalWord
  | .padz => .sel 0x20#6
  | .padzend => .sel 0x24#6
  | .padl => .sel 0x10#6
  | .blkstart => .sel 0x01#6
  | .stepq0 r => .step (0x0#2 ++ r)
  | .stepq1 r => .step (0x1#2 ++ r)
  | .stepq2 r => .step (0x2#2 ++ r)
  | .stepq3 r => .step (0x3#2 ++ r)
  | .feed => .sel 0x0A#6
  | .pop => .req 0x1#2
  | .rst => .req 0x2#2

/-- The mask and the match value of an operation's row in spec/opcode_table.json. -/
def tableRow : Instr → Nat × Nat
  | .init _ => (0x3FE, 0x000)
  | .data _ => (0x300, 0x100)
  | .final => (0x3FF, 0x200)
  | .padz => (0x24, 0x20)
  | .padzend => (0x24, 0x24)
  | .padl => (0x10, 0x10)
  | .blkstart => (0x01, 0x01)
  | .stepq0 _ => (0x30, 0x00)
  | .stepq1 _ => (0x30, 0x10)
  | .stepq2 _ => (0x30, 0x20)
  | .stepq3 _ => (0x30, 0x30)
  | .feed => (0x0A, 0x0A)
  | .pop => (0x3, 0x1)
  | .rst => (0x2, 0x2)

/-- The bits of a selecting word as a number. -/
def Encoded.bits : Encoded → Nat
  | .cmd cw => cw.toNat
  | .req r => r.toNat
  | .sel x => x.toNat
  | .step i => i.toNat

/-- The word of an opcode-table row held in one byte. The table gives its rows no format bits, so one number can be a
word of several formats; it is read in the first format in which it can occur: EVENT, then SEQ, then STEP. Log entry 5. -/
def decodeTableByte (w : Nat) : Option Instr :=
  if 64 ≤ w then none
  else if 1 ≤ w ∧ w ≤ 3 then (decodeReq (BitVec.ofNat 2 w)).instr?
  else
    match decodeSel (BitVec.ofNat 6 w) with
    | .ok i => some i
    | .rejected _ => some (decodeStep (BitVec.ofNat 6 w))

/-- The instruction the decoder reads from a row's word: a row of more than one byte is a command word (format CMD,
10 bits), any other a word of one byte. -/
def decodeTableWord (nbits w : Nat) : Option Instr :=
  if 8 < nbits then
    if w < 1024 then (decodeCmd (BitVec.ofNat 10 w)).instr? else none
  else decodeTableByte w

end Sys2Proof
end

