-- ==== Sys2Proof/Config.lean ====
section
/-! DEFINITION. The free values of the model: what a register holds after RST, which the spec leaves unspecified
(10_state.md R40, 70_reset_and_hazards.md R240, 93_implementation_defined.md U7). None of these constants has a body, so
nothing can be proved about their values. The first argument is the number of the RST, so that the value may differ
at each reset. Log entry 2. -/

namespace Sys2Proof

/-- A, B, C, D after RST: the RST's number, then 0 to 3 for A to D. -/
opaque Config.freeH : Nat → Nat → Word

/-- a, b, c, d after RST: the RST's number, then 0 to 3 for a to d. -/
opaque Config.freeW : Nat → Nat → Word

/-- M[0..15] after RST: the RST's number, then the word's index. -/
opaque Config.freeM : Nat → Nat → Word

/-- The 7-bit step counter i after RST (any value, 65 to 127 included: U7). -/
opaque Config.freeI : Nat → BitVec 7

/-- The 7-bit fill after RST. -/
opaque Config.freeFill : Nat → BitVec 7

/-- The 64-bit bit counter LEN after RST. -/
opaque Config.freeLen : Nat → BitVec 64

/-- The 4-bit lk after RST. -/
opaque Config.freeLk : Nat → BitVec 4

/-- The flag fin after RST. -/
opaque Config.freeFin : Nat → Bool

/-- The flag hexm after RST. -/
opaque Config.freeHexm : Nat → Bool

/-- The 6-bit beat index oi after RST. -/
opaque Config.freeOi : Nat → BitVec 6

end Sys2Proof
end

