-- ==== Sys2Proof/Machine/State.lean ====
section
/-! DEFINITION. The complete state of one CORE instance (10_state.md R20), the host's requests at its ports
(70_reset_and_hazards.md R254), the two ways a meaning can stop, and the state after reset. -/

namespace Sys2Proof.Machine

/-- The phase register PH; its bit encoding is not observable and not defined (10_state.md R33). -/
inductive Phase where
  | idle | absorb | padz | padl | comp | out | fault
deriving DecidableEq, Repr

/-- Four 32-bit words: the digest state A, B, C, D = H[0..3] (R21) or the working variables a, b, c, d = W[0..3]
(R23). -/
structure Quad where
  a : Word
  b : Word
  c : Word
  d : Word
deriving DecidableEq, Repr

/-- The requests the host holds at the ports: the command word offered on the command port, the pop request on the
output port, the reset input (70_reset_and_hazards.md R254). -/
structure Ports where
  cmd : Option CmdWord
  pop : Bool
  rst : Bool
deriving DecidableEq, Repr

/-- What the host does next (70_reset_and_hazards.md R254). -/
inductive HostAct where
  /-- Raise these requests at one moment. The act waits while a port it needs still holds a request. -/
  | request (r : Ports)
  /-- Withdraw the offered command word, the pop request, or both. -/
  | withdraw (cmd pop : Bool)
  /-- Let one operation of CORE go by. -/
  | idle
  /-- Wait until CORE can perform nothing more by itself: no internal operation is enabled and no request at a port can
  be taken (30_encoding.md R108). -/
  | settle
deriving DecidableEq, Repr

/-- One CORE instance with its host. The fields `h` to `einfo` are the spec's (10_state.md R20); `ports`, `script`
and `beats` are the host's side of the ports, and `draws` numbers the RSTs for the free values of Config.lean. -/
structure State where
  /-- A, B, C, D (R21, R22). -/
  h : Quad
  /-- a, b, c, d (R23). -/
  w : Quad
  /-- The block buffer M[0..15] (R24). -/
  m : Vector Word 16
  /-- The step counter i (R25, R26). -/
  i : BitVec 7
  /-- Bytes of the current block already stored (R27). -/
  fill : BitVec 7
  /-- LEN, the message length in bits modulo 2^64 (R28). -/
  len : BitVec 64
  /-- Bytes of the length field already stored (R29). -/
  lk : BitVec 4
  /-- FINAL accepted in this session (R30). -/
  fin : Bool
  /-- The output form: false `hash`, true `hash_hex` (R31). -/
  hexm : Bool
  /-- The index of the next output beat (R32). -/
  oi : BitVec 6
  /-- The phase register PH (R33). -/
  ph : Phase
  /-- ERR, sticky until RST (R35). -/
  err : Bool
  /-- ECAUSE: 0 none, 1 ILLEGAL_CMD, 2 BAD_PHASE (R35). -/
  ecause : BitVec 2
  /-- EINFO: the command word that raised the fault (R35). -/
  einfo : CmdWord
  /-- The number of RSTs performed so far: the model's own, read only to draw free values. Log entry 2. -/
  draws : Nat
  /-- The host's requests at the ports. Log entry 3. -/
  ports : Ports
  /-- What the host does from here on, first act first. Log entry 3. -/
  script : List HostAct
  /-- The beats POP has returned to the host so far, in order. Log entry 3. -/
  beats : List Beat
deriving DecidableEq, Repr

/-- The states in which a meaning has no successor (93_implementation_defined.md U14: "stuck (no successor state),
never a value"). CORE's own ProtocolFault is not one of these: it is a next state (60_exceptions.md R214). -/
inductive Fault where
  /-- Raised by an internal operation performed outside its "Enabled when" condition, where "the operation has no step"
  (00_scope.md R13). `step` never does so. Safe: no state follows. -/
  | notEnabled
  /-- Raised by PutByte with fill above 63, PADL with lk above 7 and POP with oi past the last beat: register values
  no rule produces in that phase (10_state.md R20). Safe: no state follows. -/
  | unreachedValue
deriving DecidableEq, Repr

/-- Refusals. -/
inductive Refusal where
  /-- An operation whose meaning is not written; raised only by an arm of `exec`, and no arm does. Safe. -/
  | notModelled (mnemonic : String)
deriving DecidableEq, Repr

/-- No request at any port. -/
def Ports.none : Ports := ⟨.none, false, false⟩

/-- All four words 0. -/
def Quad.zero : Quad := ⟨0, 0, 0, 0⟩

/-- The state at power-on, before any request: PH = IDLE, ERR = 0, ECAUSE = 0, EINFO = 0 (10_state.md R40,
70_reset_and_hazards.md R241). Every other register is unspecified there; the value 0 it holds here is a
DESIGN CHOICE, log entry 1. -/
def State.reset : State where
  h := Quad.zero
  w := Quad.zero
  m := Vector.replicate 16 0
  i := 0#7
  fill := 0#7
  len := 0#64
  lk := 0#4
  fin := false
  hexm := false
  oi := 0#6
  ph := .idle
  err := false
  ecause := 0#2
  einfo := 0#10
  draws := 0
  ports := Ports.none
  script := []
  beats := []

end Sys2Proof.Machine
end

