-- ==== Sys2Proof/Machine/Flags.lean ====
section
/-! DEFINITION. The status outputs, each a pure function of the state (10_state.md R36). CORE has no condition codes:
every addition wraps silently (00_scope.md R10). -/

namespace Sys2Proof.Machine

/-- `cmd_ready`: a command word can be accepted. -/
def cmdReady (s : State) : Bool := s.ph = .idle || s.ph = .absorb

/-- `out_valid`: a beat can be popped. -/
def outValid (s : State) : Bool := s.ph = .out

/-- `busy`: CORE runs by internal operations. -/
def busy (s : State) : Bool := s.ph = .padz || s.ph = .padl || s.ph = .comp

/-- `err`: the sticky flag ERR. -/
def errOut (s : State) : Bool := s.err

/-- `ecause`: ECAUSE. -/
def ecauseOut (s : State) : BitVec 2 := s.ecause

/-- `einfo`: EINFO. -/
def einfoOut (s : State) : CmdWord := s.einfo

end Sys2Proof.Machine
end

