-- ==== Sys2Proof/Machine/Tables.lean ====
section
/-! DEFINITION. The constants of CORE: the initial digest state and the read-only tables K and S
(10_state.md R22, R37; 42_compression.md R169, R170). They are constants of the step function, not state
(20_memory.md R77). -/

namespace Sys2Proof.Machine

/-- IV, the initial value of the digest state, loaded by INIT (R22). -/
def iv : Quad := ⟨0x67452301#32, 0xefcdab89#32, 0x98badcfe#32, 0x10325476#32⟩

/-- The padding marker byte (00_scope.md R5). -/
def markerByte : Byte := 0x80#8

/-- The padding fill byte (00_scope.md R5). -/
def fillByte : Byte := 0x00#8

/-- K[0..15] (R169). -/
def tableK0 : List Word :=
  [0xd76aa478#32, 0xe8c7b756#32, 0x242070db#32, 0xc1bdceee#32,
   0xf57c0faf#32, 0x4787c62a#32, 0xa8304613#32, 0xfd469501#32,
   0x698098d8#32, 0x8b44f7af#32, 0xffff5bb1#32, 0x895cd7be#32,
   0x6b901122#32, 0xfd987193#32, 0xa679438e#32, 0x49b40821#32]

/-- K[16..31] (R169). -/
def tableK1 : List Word :=
  [0xf61e2562#32, 0xc040b340#32, 0x265e5a51#32, 0xe9b6c7aa#32,
   0xd62f105d#32, 0x02441453#32, 0xd8a1e681#32, 0xe7d3fbc8#32,
   0x21e1cde6#32, 0xc33707d6#32, 0xf4d50d87#32, 0x455a14ed#32,
   0xa9e3e905#32, 0xfcefa3f8#32, 0x676f02d9#32, 0x8d2a4c8a#32]

/-- K[32..47] (R169). -/
def tableK2 : List Word :=
  [0xfffa3942#32, 0x8771f681#32, 0x6d9d6122#32, 0xfde5380c#32,
   0xa4beea44#32, 0x4bdecfa9#32, 0xf6bb4b60#32, 0xbebfbc70#32,
   0x289b7ec6#32, 0xeaa127fa#32, 0xd4ef3085#32, 0x04881d05#32,
   0xd9d4d039#32, 0xe6db99e5#32, 0x1fa27cf8#32, 0xc4ac5665#32]

/-- K[48..63] (R169). -/
def tableK3 : List Word :=
  [0xf4292244#32, 0x432aff97#32, 0xab9423a7#32, 0xfc93a039#32,
   0x655b59c3#32, 0x8f0ccc92#32, 0xffeff47d#32, 0x85845dd1#32,
   0x6fa87e4f#32, 0xfe2ce6e0#32, 0xa3014314#32, 0x4e0811a1#32,
   0xf7537e82#32, 0xbd3af235#32, 0x2ad7d2bb#32, 0xeb86d391#32]

/-- The additive constant K[i], a 32-bit word (R169). -/
def constK (i : BitVec 6) : Word :=
  (tableK0 ++ tableK1 ++ tableK2 ++ tableK3).getD i.toNat 0#32

/-- The four values that recur in quadrant `q` (R170). -/
def patternS (q : BitVec 2) : List (BitVec 5) :=
  if q = 0#2 then [7#5, 12#5, 17#5, 22#5]
  else if q = 1#2 then [5#5, 9#5, 14#5, 20#5]
  else if q = 2#2 then [4#5, 11#5, 16#5, 23#5]
  else [6#5, 10#5, 15#5, 21#5]

/-- The rotation amount S[i], held in 5 bits; it depends on the quadrant and on i mod 4 (R170). -/
def amountS (i : BitVec 6) : BitVec 5 :=
  (patternS (i.extractLsb' 4 2)).getD (i.extractLsb' 0 2).toNat 0#5

end Sys2Proof.Machine
end

