-- ==== Sys2Proof/Machine/Operands.lean ====
section
/-! DEFINITION. Every operand form: rotation, the byte and word views of the block buffer, the byte of the length
field, the quadrant functions and message indices, the digest bytes and characters, the output beat. -/

namespace Sys2Proof.Machine

/-- Circular left rotation of a 32-bit word by `n`; the spec defines it for 0 < n < 32 only and every amount that
occurs is 4 to 23 (00_scope.md R11). -/
def rotl32 (x : Word) (n : Nat) : Word := (x <<< n) ||| (x >>> (32 - n))

/-- Byte lane `k` of a word: bits 8k+7 to 8k (20_memory.md R68). -/
def byteLane (x : Word) (k : BitVec 2) : Byte := x.extractLsb' (8 * k.toNat) 8

/-- A word with byte lane `k` replaced; no other bit changes (20_memory.md R68). -/
def setByteLane (x : Word) (k : BitVec 2) (v : Byte) : Word :=
  (x &&& ~~~(0x000000ff#32 <<< (8 * k.toNat))) ||| (v.setWidth 32 <<< (8 * k.toNat))

/-- The word read M[g] (20_memory.md R70). -/
def blockWord (m : Vector Word 16) (g : BitVec 4) : Word := m[g.toNat]

/-- The byte view BB[p] = M[p div 4][8(p mod 4)+7 : 8(p mod 4)] (20_memory.md R68). -/
def blockByte (m : Vector Word 16) (p : BitVec 6) : Byte :=
  byteLane (blockWord m (p.extractLsb' 2 4)) (p.extractLsb' 0 2)

/-- The byte store BB[p] <- v, `MemWrite(BLK, p, 1, v)` (41_padding_packing.md R144). -/
def storeBlockByte (m : Vector Word 16) (p : BitVec 6) (v : Byte) : Vector Word 16 :=
  let j := p.extractLsb' 2 4
  m.set j.toNat (setByteLane (blockWord m j) (p.extractLsb' 0 2) v)

/-- Byte `k` of LEN, bits 8k+7 to 8k, least significant byte first (20_memory.md R63). -/
def lenByte (len : BitVec 64) (k : Nat) : Byte := len.extractLsb' (8 * k) 8

/-- The quadrant function of STEPQ0 (42_compression.md R163). -/
def funQ0 (w : Quad) : Word := (w.b &&& w.c) ||| (not32 w.b &&& w.d)

/-- The quadrant function of STEPQ1 (R164). -/
def funQ1 (w : Quad) : Word := (w.d &&& w.b) ||| (not32 w.d &&& w.c)

/-- The quadrant function of STEPQ2 (R165). -/
def funQ2 (w : Quad) : Word := w.b ^^^ w.c ^^^ w.d

/-- The quadrant function of STEPQ3 (R166). -/
def funQ3 (w : Quad) : Word := w.c ^^^ (w.b ||| not32 w.d)

/-- The message-word index of STEPQ0: g = i (30_encoding.md R100). -/
def indexQ0 (i : BitVec 6) : BitVec 4 := BitVec.ofNat 4 i.toNat

/-- The message-word index of STEPQ1: g = (5i + 1) mod 16 (R100). -/
def indexQ1 (i : BitVec 6) : BitVec 4 := BitVec.ofNat 4 (5 * i.toNat + 1)

/-- The message-word index of STEPQ2: g = (3i + 5) mod 16 (R100). -/
def indexQ2 (i : BitVec 6) : BitVec 4 := BitVec.ofNat 4 (3 * i.toNat + 5)

/-- The message-word index of STEPQ3: g = 7i mod 16 (R100). -/
def indexQ3 (i : BitVec 6) : BitVec 4 := BitVec.ofNat 4 (7 * i.toNat)

/-- H[j], the j-th of A, B, C, D (10_state.md R21). -/
def Quad.word (q : Quad) (j : BitVec 2) : Word :=
  if j = 0#2 then q.a else if j = 1#2 then q.b else if j = 2#2 then q.c else q.d

/-- DIG[n]: byte n mod 4 of H[n div 4], least significant byte first (43_serializer.md R190). -/
def digestByte (h : Quad) (n : BitVec 4) : Byte :=
  byteLane (h.word (n.extractLsb' 2 2)) (n.extractLsb' 0 2)

/-- The character code of a digit value: 0x30 + v up to 9, 0x57 + v from 10 (43_serializer.md R192). -/
def hexdigit (v : BitVec 4) : Byte :=
  if v.toNat ≤ 9 then 0x30#8 + v.setWidth 8 else 0x57#8 + v.setWidth 8

/-- HEX[n]: the digit of the high four bits of DIG[n div 2] for even n, of the low four for odd n
(43_serializer.md R191, 20_memory.md R65). -/
def hexChar (h : Quad) (n : BitVec 5) : Byte :=
  let byte := digestByte h (n.extractLsb' 1 4)
  if n.getLsbD 0 then hexdigit (byte.extractLsb' 0 4) else hexdigit (byte.extractLsb' 4 4)

/-- The index of the session's last beat: 15 for bytes, 31 for characters (43_serializer.md R193). -/
def lastBeat (hexm : Bool) : BitVec 6 := if hexm then 31#6 else 15#6

/-- The data of beat `oi` (R193). -/
def beatData (h : Quad) (hexm : Bool) (oi : BitVec 6) : Byte :=
  if hexm then hexChar h (oi.extractLsb' 0 5) else digestByte h (oi.extractLsb' 0 4)

/-- Format BEAT: `last` in bit 8, `data` in bits 7:0 (30_encoding.md R96). -/
def makeBeat (last : Bool) (data : Byte) : Beat := BitVec.ofBool last ++ data

end Sys2Proof.Machine
end

