-- ==== Sys2Proof/Machine/Ops.lean ====
section
/-! DEFINITION. The operations the meanings share: taking requests off the ports, accepting a command word, the
protocol fault and the way out of it, PutByte with its fused BLKSTART, the common part of the steps. -/

namespace Sys2Proof.Machine

/-- What a meaning answers. -/
abbrev Result := Host.Outcome State Fault Refusal

/-- The next state of an answer, if there is one. -/
def nextState? : Result → Option State
  | .next s => some s
  | .fault _ => none
  | .refused _ => none

/-- The command port after the offered word has been accepted. -/
def State.takeCmd (s : State) : State := { s with ports := { s.ports with cmd := none } }

/-- The output port after the pop request has been performed. -/
def State.takePop (s : State) : State := { s with ports := { s.ports with pop := false } }

/-- The causes of a protocol fault (60_exceptions.md R212). -/
inductive Cause where
  | illegalCmd
  | badPhase
deriving DecidableEq, Repr

/-- The code a cause leaves in ECAUSE (R212). -/
def Cause.code : Cause → BitVec 2
  | .illegalCmd => 1#2
  | .badPhase => 2#2

/-- Fault entry: `raise ProtocolFault(cause, cw)`; exactly these four writes (60_exceptions.md R214). -/
def protocolFault (cause : Cause) (cw : CmdWord) (s : State) : State :=
  { s with err := true, ecause := cause.code, einfo := cw, ph := .fault }

/-- RST: the only way out of phase FAULT (60_exceptions.md R216) and of a session. Four registers get their reset
values and every other register becomes unspecified, a free value (70_reset_and_hazards.md R240). The host's other
requests, its script and the beats it already took are not CORE's. -/
def resetCore (s : State) : State where
  h := ⟨Config.freeH s.draws 0, Config.freeH s.draws 1, Config.freeH s.draws 2, Config.freeH s.draws 3⟩
  w := ⟨Config.freeW s.draws 0, Config.freeW s.draws 1, Config.freeW s.draws 2, Config.freeW s.draws 3⟩
  m := Vector.ofFn fun j => Config.freeM s.draws j.val
  i := Config.freeI s.draws
  fill := Config.freeFill s.draws
  len := Config.freeLen s.draws
  lk := Config.freeLk s.draws
  fin := Config.freeFin s.draws
  hexm := Config.freeHexm s.draws
  oi := Config.freeOi s.draws
  ph := .idle
  err := false
  ecause := 0#2
  einfo := 0#10
  draws := s.draws + 1
  ports := { s.ports with rst := false }
  script := s.script
  beats := s.beats

/-- A legal command word `cw` meets phase `allowed`: accepted there with its effect; accepted in the other ready phase
as a BAD_PHASE fault with no other effect; while `cmd_ready` = 0 it waits at the port and nothing happens
(40_host_commands.md R122, 60_exceptions.md R212). -/
def acceptCommand (cw : CmdWord) (allowed : Phase) (effect : State → Result) (s : State) : Result :=
  if cmdReady s then
    if s.ph = allowed then effect s.takeCmd else .next (protocolFault .badPhase cw s.takeCmd)
  else .next s

/-- An illegal command word is accepted as an ILLEGAL_CMD fault, whatever the ready phase: the encoding is checked
before the phase (60_exceptions.md R213). -/
def acceptIllegal (cw : CmdWord) (s : State) : State :=
  if cmdReady s then protocolFault .illegalCmd cw s.takeCmd else s

/-- BLKSTART: a, b, c, d <- A, B, C, D and i <- 0 (42_compression.md R161). -/
def blkStart (s : State) : State := { s with w := s.h, i := 0#7 }

/-- The two register writes every PutByte makes: the byte lane and fill + 1 (41_padding_packing.md R144). -/
def storeByte (v : Byte) (s : State) : State :=
  { s with m := storeBlockByte s.m (s.fill.extractLsb' 0 6) v, fill := s.fill + 1#7 }

/-- PutByte(v, np): store one byte of the padded message; byte 63 starts the compression (41_padding_packing.md R144).
It "is only ever called with fill in 0 to 63"; any other value has no successor. -/
def putByte (v : Byte) (np : Phase) (s : State) : Result :=
  if 64 ≤ s.fill.toNat then .fault .unreachedValue
  else if s.fill.toNat = 63 then .next { blkStart (storeByte v s) with ph := .comp }
  else .next { storeByte v s with ph := np }

/-- The new working variables of a step: t = f + a + K[i] + M[g], nb = b + rotl32(t, S[i]), and the simultaneous
shift (a, b, c, d) <- (d, nb, b, c), all right-hand sides old values (42_compression.md R162, R167). -/
def stepQuad (f : Word) (i : BitVec 6) (mg : Word) (w : Quad) : Quad :=
  let t := add32 (add32 (add32 f w.a) (constK i)) mg
  { a := w.d, b := add32 w.b (rotl32 t (amountS i).toNat), c := w.b, d := w.c }

/-- The common part of the four step operations, for the round index `idx` the operation was selected by: enabled in
phase COMP when the step counter holds `idx` (42_compression.md R162, 30_encoding.md R100). -/
def runStep (idx : BitVec 6) (f : Quad → Word) (g : BitVec 6 → BitVec 4) (s : State) : Result :=
  if s.ph = .comp ∧ s.i = idx.setWidth 7 then
    .next { s with w := stepQuad (f s.w) idx (blockWord s.m (g idx)) s.w, i := s.i + 1#7 }
  else .fault .notEnabled

/-- A word-by-word addition of two quadruples modulo 2^32 (42_compression.md R168). -/
def addQuad (x y : Quad) : Quad := ⟨add32 x.a y.a, add32 x.b y.b, add32 x.c y.c, add32 x.d y.d⟩

end Sys2Proof.Machine
end

