-- ==== Sys2Proof/Machine/Command.lean ====
section
/-! DEFINITION. The host commands INIT, DATA and FINAL (40_host_commands.md R122 to R125). -/

namespace Sys2Proof.Machine

/-- INIT (R123): load the initial constants, clear the session's counters and flags, latch the output form. -/
def execInit (hex : Bool) (s : State) : Result :=
  acceptCommand (initWord hex) .idle
    (fun s => .next { s with h := iv, len := 0#64, fill := 0#7, lk := 0#4, fin := false, hexm := hex, oi := 0#6, ph := .absorb })
    s

/-- DATA (R124): count 8 bits and store the byte. -/
def execData (d : Byte) (s : State) : Result :=
  acceptCommand (dataWord d) .absorb (fun s => putByte d .absorb { s with len := add64 s.len 8#64 }) s

/-- FINAL (R125): note the end of the message and store the marker byte. -/
def execFinal (s : State) : Result :=
  acceptCommand finalWord .absorb (fun s => putByte markerByte .padz { s with fin := true }) s

end Sys2Proof.Machine
end

