-- ==== Sys2Proof/Machine/Compress.lean ====
section
/-! DEFINITION. The operations of the compression engine: BLKSTART, the four steps and FEED
(42_compression.md R161 to R168). -/

namespace Sys2Proof.Machine

/-- BLKSTART (R161), as the tail of a PutByte performs it. No selection runs it on its own (WellFormed.lean, log entry 9); PutByte
itself sets PH. -/
def execBlkstart (s : State) : Result := .next (blkStart s)

/-- STEPQ0 (R163). -/
def execStepq0 (r : BitVec 4) (s : State) : Result := runStep (0x0#2 ++ r) funQ0 indexQ0 s

/-- STEPQ1 (R164). -/
def execStepq1 (r : BitVec 4) (s : State) : Result := runStep (0x1#2 ++ r) funQ1 indexQ1 s

/-- STEPQ2 (R165). -/
def execStepq2 (r : BitVec 4) (s : State) : Result := runStep (0x2#2 ++ r) funQ2 indexQ2 s

/-- STEPQ3 (R166). -/
def execStepq3 (r : BitVec 4) (s : State) : Result := runStep (0x3#2 ++ r) funQ3 indexQ3 s

/-- FEED (R168): add the working variables into the digest state and choose the next phase from lk and fin; enabled
when PH = COMP and i = 64. -/
def execFeed (s : State) : Result :=
  if s.ph = .comp ∧ s.i = 64#7 then
    if s.lk = 8#4 then .next { s with h := addQuad s.h s.w, fill := 0#7, oi := 0#6, ph := .out }
    else .next { s with h := addQuad s.h s.w, fill := 0#7, ph := if s.fin then .padz else .absorb }
  else .fault .notEnabled

end Sys2Proof.Machine
end

