-- ==== Sys2Proof/Machine/Output.lean ====
section
/-! DEFINITION. The output operation POP (43_serializer.md R193). -/

namespace Sys2Proof.Machine

/-- POP (R193): return beat oi, advance oi, and end the session with the last beat. Outside phase OUT the request waits
and nothing happens. A session has no beat past the last one, so oi above it, which no rule produces in phase OUT,
has no successor. -/
def execPop (s : State) : Result :=
  if outValid s then
    if (lastBeat s.hexm).toNat < s.oi.toNat then .fault .unreachedValue
    else
      let last : Bool := s.oi == lastBeat s.hexm
      .next { s.takePop with
        beats := s.beats ++ [makeBeat last (beatData s.h s.hexm s.oi)]
        oi := s.oi + 1#6
        ph := if last then .idle else .out }
  else .next s

end Sys2Proof.Machine
end

