-- ==== Sys2Proof/Machine/Padding.lean ====
section
/-! DEFINITION. The padding operations PADZ, PADZEND and PADL (41_padding_packing.md R145 to R147). -/

namespace Sys2Proof.Machine

/-- PADZ (R145): append one zero byte; enabled when PH = PADZ and fill is not 56. -/
def execPadz (s : State) : Result :=
  if s.ph = .padz ∧ s.fill ≠ 56#7 then putByte fillByte .padz s else .fault .notEnabled

/-- PADZEND (R146): the zero fill is complete; enabled when PH = PADZ and fill = 56. -/
def execPadzend (s : State) : Result :=
  if s.ph = .padz ∧ s.fill = 56#7 then .next { s with ph := .padl } else .fault .notEnabled

/-- PADL (R147): append byte lk of LEN, least significant first; enabled when PH = PADL. LEN has no byte 8 or above,
so lk above 7, which no rule produces there, has no successor. -/
def execPadl (s : State) : Result :=
  if s.ph = .padl then
    if 8 ≤ s.lk.toNat then .fault .unreachedValue
    else putByte (lenByte s.len s.lk.toNat) .padl { s with lk := s.lk + 1#4 }
  else .fault .notEnabled

end Sys2Proof.Machine
end

