-- ==== Sys2Proof/Machine/Reset.lean ====
section
/-! DEFINITION. The reset operation RST (70_reset_and_hazards.md R240). -/

namespace Sys2Proof.Machine

/-- RST (R240): enabled always, in every phase. -/
def execRst (s : State) : Result := .next (resetCore s)

end Sys2Proof.Machine
end

