-- ==== Sys2Proof/Machine/Dispatch.lean ====
section
/-! DEFINITION. The dispatch of every operation to its meaning, one arm per row of spec/opcode_table.json. -/

namespace Sys2Proof.Machine

def exec (i : Instr) (s : State) : Host.Outcome State Fault Refusal :=
  match i with
  | .init hex => Sys2Proof.Machine.execInit hex s
  | .data d => Sys2Proof.Machine.execData d s
  | .final => Sys2Proof.Machine.execFinal s
  | .padz => Sys2Proof.Machine.execPadz s
  | .padzend => Sys2Proof.Machine.execPadzend s
  | .padl => Sys2Proof.Machine.execPadl s
  | .blkstart => Sys2Proof.Machine.execBlkstart s
  | .stepq0 r => Sys2Proof.Machine.execStepq0 r s
  | .stepq1 r => Sys2Proof.Machine.execStepq1 r s
  | .stepq2 r => Sys2Proof.Machine.execStepq2 r s
  | .stepq3 r => Sys2Proof.Machine.execStepq3 r s
  | .feed => Sys2Proof.Machine.execFeed s
  | .pop => Sys2Proof.Machine.execPop s
  | .rst => Sys2Proof.Machine.execRst s

end Sys2Proof.Machine
end

