-- ==== Sys2Proof/Machine/Select.lean ====
section
/-! DEFINITION. The sequencer: what operation is performed next (30_encoding.md R105, 10_state.md R33). -/

namespace Sys2Proof.Machine

/-- The request vector `req` from its two truth values (R105). -/
def reqBits (rst pop : Bool) : BitVec 2 := BitVec.ofBool rst ++ BitVec.ofBool pop

/-- The request vector `req` (R105). -/
def reqVector (s : State) : BitVec 2 := reqBits s.ports.rst s.ports.pop

/-- The selector `sel` from its six truth values, sel[5] first (R105). -/
def selBits (padz padl comp fill56 i64 fill63 : Bool) : BitVec 6 :=
  BitVec.ofBool padz ++ BitVec.ofBool padl ++ BitVec.ofBool comp ++ BitVec.ofBool fill56 ++ BitVec.ofBool i64 ++
    BitVec.ofBool fill63

/-- The selector `sel` of state predicates (R105). -/
def selVector (s : State) : BitVec 6 :=
  selBits (s.ph = .padz) (s.ph = .padl) (s.ph = .comp) (s.fill = 56#7) (s.i = 64#7) (s.fill = 63#7)

/-- The internal operation the state enables, at most one (10_state.md R33): by the selector, or, in phase COMP with
i < 64, by format STEP on i[5:0]. -/
def selectInternal (s : State) : Option Instr :=
  match decodeSel (selVector s) with
  | .ok i => some i
  | .rejected .readStepIndex => if s.i.toNat < 64 then some (decodeStep (s.i.extractLsb' 0 6)) else none
  | .rejected _ => none

/-- What happens next. -/
inductive Selection where
  /-- This operation is performed. -/
  | perform (i : Instr)
  /-- This illegal command word is accepted. -/
  | illegal (cw : CmdWord)
  /-- No operation is enabled: CORE waits for the host. -/
  | wait
deriving DecidableEq, Repr

/-- Reset wins over every other request (60_exceptions.md R213); an enabled internal operation is performed
(70_reset_and_hazards.md R252); a command word is accepted only when `cmd_ready` = 1 and a pop request performed only
when `out_valid` = 1 (40_host_commands.md R122, 43_serializer.md R193). -/
def select (s : State) : Selection :=
  if decodeReq (reqVector s) = .ok .rst then .perform .rst
  else
    match selectInternal s with
    | some i => .perform i
    | none =>
      if cmdReady s then
        match s.ports.cmd with
        | some cw =>
          match decodeCmd cw with
          | .ok i => .perform i
          | .rejected _ => .illegal cw
        | none => .wait
      else if outValid s then
        match decodeReq (reqVector s) with
        | .ok i => .perform i
        | .rejected _ => .wait
      else .wait

end Sys2Proof.Machine
end

