-- ==== Sys2Proof/Machine/HostPort.lean ====
section
/-! DEFINITION. The host agent at the ports (70_reset_and_hazards.md R254) and the textual notation of host programs
(30_encoding.md R108, R109). -/

namespace Sys2Proof.Machine

/-- Can the host not yet make this act? A request waits while a port it needs still holds one: a request "once
offered, is held and not changed until it is accepted or withdrawn" (R254). -/
def HostAct.blocked (s : State) : HostAct → Bool
  | .request r => (r.cmd.isSome && s.ports.cmd.isSome) || (r.pop && s.ports.pop) || (r.rst && s.ports.rst)
  | .withdraw _ _ => false
  | .idle => false
  | .settle => select s ≠ .wait

/-- The ports after an act that is not blocked. -/
def HostAct.apply (p : Ports) : HostAct → Ports
  | .request r => { cmd := if r.cmd.isSome then r.cmd else p.cmd, pop := r.pop || p.pop, rst := r.rst || p.rst }
  | .withdraw cmd pop => { p with cmd := if cmd then none else p.cmd, pop := p.pop && !pop }
  | .idle => p
  | .settle => p

/-- The host makes its next act, if it has one and can make it. -/
def hostMove (s : State) : State :=
  match s.script with
  | [] => s
  | act :: rest =>
    if act.blocked s then s else { s with ports := act.apply s.ports, script := rest }

/-- Offer one command word. -/
def HostAct.offer (cw : CmdWord) : HostAct := .request ⟨some cw, false, false⟩

/-- Make one pop request. -/
def HostAct.popRequest : HostAct := .request ⟨none, true, false⟩

/-- Apply the reset input. -/
def HostAct.reset : HostAct := .request ⟨none, false, true⟩

/-- Withdraw whatever is still offered at the ports. -/
def HostAct.withdrawAll : HostAct := .withdraw true true

/-- A line of a host program (R108, R109). Text stands as its bytes: how a host turns a string into bytes "happens
before the command port" (20_memory.md R61). -/
inductive ProgramLine where
  | init
  | initHex
  | data (d : Byte)
  | final
  | pop
  | rst
  | raw (cw : CmdWord)
  | msg (bytes : List Byte)
  | hash (bytes : List Byte)
  | hashHex (bytes : List Byte)
deriving DecidableEq, Repr

/-- The conforming session for a message: INIT, one DATA per byte, FINAL, then 16 or 32 POPs
(40_host_commands.md R122). -/
def session (hex : Bool) (msg : List Byte) : List HostAct :=
  HostAct.offer (initWord hex) :: (msg.map fun d => HostAct.offer (dataWord d)) ++
    HostAct.offer finalWord :: List.replicate (if hex then 32 else 16) HostAct.popRequest

/-- The acts of a program line (R108, R109). A command or a pop waits at its port while CORE is busy, so the line after it
need not wait. `rst` is performed in every phase and so must: it waits until the lines before it, and the internal
operations between them, are performed; what then still waits can be performed no more, and the host withdraws it
(95_test_vectors.md P5). Log entry 12. -/
def ProgramLine.acts : ProgramLine → List HostAct
  | .init => [.offer (initWord false)]
  | .initHex => [.offer (initWord true)]
  | .data d => [.offer (dataWord d)]
  | .final => [.offer finalWord]
  | .pop => [.popRequest]
  | .rst => [.settle, .withdrawAll, .reset]
  | .raw cw => [.offer cw]
  | .msg bytes => bytes.map fun d => .offer (dataWord d)
  | .hash bytes => session false bytes
  | .hashHex bytes => session true bytes

/-- The script of a host program. -/
def programScript (lines : List ProgramLine) : List HostAct := lines.flatMap ProgramLine.acts

end Sys2Proof.Machine
end

