-- ==== Sys2Proof/Machine/Place.lean ====
section
/-! DEFINITION. Placing an operation so that the next step performs it. CORE has no program counter and fetches
nothing (10_state.md R25), so the condition that selects the operation (30_encoding.md R105) is what is placed.
Log entries 4 and 5. -/

namespace Sys2Proof.Machine

/-- The state part of the operation's selecting condition. A register that already meets it, or that the operation
does not need, keeps its value. -/
def placeOperation (i : Instr) (s : State) : State :=
  match i with
  | .init _ => { s with ph := .idle }
  | .data _ => { s with ph := .absorb, fill := if s.fill.toNat < 64 then s.fill else 0#7 }
  | .final => { s with ph := .absorb, fill := if s.fill.toNat < 64 then s.fill else 0#7 }
  | .padz => { s with ph := .padz, fill := if s.fill.toNat < 64 ∧ s.fill ≠ 56#7 then s.fill else 0#7 }
  | .padzend => { s with ph := .padz, fill := 56#7 }
  | .padl =>
    let lk : BitVec 4 := if s.lk.toNat < 8 then s.lk else 0#4
    { s with ph := .padl, lk := lk, fill := 56#7 + lk.setWidth 7 }
  | .blkstart => s
  | .stepq0 r => { s with ph := .comp, i := (0x0#2 ++ r).setWidth 7 }
  | .stepq1 r => { s with ph := .comp, i := (0x1#2 ++ r).setWidth 7 }
  | .stepq2 r => { s with ph := .comp, i := (0x2#2 ++ r).setWidth 7 }
  | .stepq3 r => { s with ph := .comp, i := (0x3#2 ++ r).setWidth 7 }
  | .feed => { s with ph := .comp, i := 64#7 }
  | .pop => { s with ph := .out, oi := if (lastBeat s.hexm).toNat < s.oi.toNat then 0#6 else s.oi }
  | .rst => s

/-- The requests that a row's word stands for: a command word on the command port, or a pop or reset request. -/
def placePorts (nbits w : Nat) : Ports :=
  if 8 < nbits then
    if w < 1024 then ⟨some (BitVec.ofNat 10 w), false, false⟩ else Ports.none
  else
    match decodeTableByte w with
    | some .pop => ⟨none, true, false⟩
    | some .rst => ⟨none, false, true⟩
    | _ => Ports.none

/-- The host makes no request in the next step, and goes on with its script after it. -/
def holdScript : List HostAct → List HostAct
  | [] => []
  | act :: rest => .idle :: act :: rest

/-- Place the operation that a row's word decodes to; a command word that decodes to none is offered to a ready
CORE. -/
def placeWord (s : State) (nbits w : Nat) : State :=
  let s := { s with ports := placePorts nbits w, script := holdScript s.script }
  match decodeTableWord nbits w with
  | some i => placeOperation i s
  | none => if cmdReady s then s else { s with ph := .idle }

end Sys2Proof.Machine
end

