-- ==== Sys2Proof/Machine/Step.lean ====
section
/-! DEFINITION. One step of the machine: the host makes its next act, then CORE performs the operation that is
selected, or waits (00_scope.md R8, 10_state.md R33). -/

namespace Sys2Proof.Machine

/-- CORE's part of a step. Where no operation is enabled CORE waits and its state does not change
(60_exceptions.md R224, 70_reset_and_hazards.md R243). -/
def coreMove (s : State) : Host.Outcome State Fault Refusal :=
  match select s with
  | .perform i => exec i s
  | .illegal cw => .next (acceptIllegal cw s)
  | .wait => .next s

/-- One step. -/
def step (s : State) : Host.Outcome State Fault Refusal := coreMove (hostMove s)

/-- `s` with the operation of a row's word placed where the next step selects it. Log entries 4 and 5. -/
def State.withFetchWord (s : State) (nbits w : Nat) : State := placeWord s nbits w

end Sys2Proof.Machine
end

