-- ==== Sys2Proof/Machine/Contract.lean ====
section
/-! DEFINITION. The contract of CORE as functions of the message: padding, packing, blocks, compression, the two
renderings and the two entry points (40_host_commands.md R120, R121; 41_padding_packing.md R140, R142, R143;
42_compression.md R160; 43_serializer.md R190, R191). They are written from the contract's own rules, apart from the
operations that realise them. -/

namespace Sys2Proof.Machine

/-- z, the number of zero bytes of the padding: the least non-negative residue of 55 - L modulo 64 (R140). -/
def zeroCount (len : Nat) : Nat := (119 - len % 64) % 64

/-- LENF: the 8 bytes of (8 L) mod 2^64, least significant first (30_encoding.md R98). -/
def lengthField (len : Nat) : List Byte :=
  (List.range 8).map fun k => (BitVec.ofNat 64 (8 * len)).extractLsb' (8 * k) 8

/-- PMSG, the padded message (R140, 30_encoding.md R97). -/
def pad (msg : List Byte) : List Byte :=
  msg ++ [0x80#8] ++ List.replicate (zeroCount msg.length) 0x00#8 ++ lengthField msg.length

/-- Packing: byte 4j is the least significant of word j (R142, 20_memory.md R62). -/
def packWord (p : List Byte) (j : Nat) : Word :=
  (p.getD (4 * j) 0).setWidth 32 + 0x100#32 * (p.getD (4 * j + 1) 0).setWidth 32 +
    0x10000#32 * (p.getD (4 * j + 2) 0).setWidth 32 + 0x1000000#32 * (p.getD (4 * j + 3) 0).setWidth 32

/-- The packing function (R142). -/
def pack (p : List Byte) : List Word := (List.range (p.length / 4)).map (packWord p)

/-- The block sequence: block n is words 16n to 16n + 15 (R143, 30_encoding.md R99). -/
def blocks (w : List Word) : List (Vector Word 16) :=
  (List.range (w.length / 16)).map fun n => Vector.ofFn fun j : Fin 16 => w.getD (16 * n + j.val) 0

/-- The nonlinear function by the quadrant of i (R160). -/
def roundFun (i : Nat) (w : Quad) : Word :=
  if i / 16 = 0 then (w.b &&& w.c) ||| (~~~w.b &&& w.d)
  else if i / 16 = 1 then (w.d &&& w.b) ||| (~~~w.d &&& w.c)
  else if i / 16 = 2 then w.b ^^^ w.c ^^^ w.d
  else w.c ^^^ (w.b ||| ~~~w.d)

/-- The message-word index by the quadrant of i (R160). -/
def roundIndex (i : Nat) : Nat :=
  if i / 16 = 0 then i
  else if i / 16 = 1 then (5 * i + 1) % 16
  else if i / 16 = 2 then (3 * i + 5) % 16
  else (7 * i) % 16

/-- The body of the compression's loop (R160). -/
def roundStep (blk : Vector Word 16) (w : Quad) (i : Nat) : Quad :=
  let k := BitVec.ofNat 6 i
  let t := roundFun i w + w.a + constK k + blk.toList.getD (roundIndex i) 0
  { a := w.d, b := w.b + rotl32 t (amountS k).toNat, c := w.b, d := w.c }

/-- The compression of one block (R160). -/
def compress (st : Quad) (blk : Vector Word 16) : Quad :=
  let w := (List.range 64).foldl (roundStep blk) st
  ⟨st.a + w.a, st.b + w.b, st.c + w.c, st.d + w.d⟩

/-- The four bytes of a word, least significant first (20_memory.md R64). -/
def wordBytes (x : Word) : List Byte :=
  [x.extractLsb' 0 8, x.extractLsb' 8 8, x.extractLsb' 16 8, x.extractLsb' 24 8]

/-- The digest bytes DIG[0..15] (R190, 30_encoding.md R103). -/
def serialize (h : Quad) : List Byte := wordBytes h.a ++ wordBytes h.b ++ wordBytes h.c ++ wordBytes h.d

/-- The hexadecimal rendering HEX, as character codes, high digit first (R191, 30_encoding.md R104). -/
def hexstr (dig : List Byte) : List Byte :=
  dig.flatMap fun b => [hexdigit (b.extractLsb' 4 4), hexdigit (b.extractLsb' 0 4)]

/-- The entry point `hash` (R120). -/
def hash (msg : List Byte) : List Byte := serialize ((blocks (pack (pad msg))).foldl compress iv)

/-- The entry point `hash_hex` (R121). -/
def hashHex (msg : List Byte) : List Byte := hexstr (hash msg)

/-- The beats that carry a list of data: `last` on the final one only (R193). -/
def beatsOf (data : List Byte) : List Beat :=
  data.mapIdx fun n d => makeBeat (n + 1 == data.length) d

/-- The beats of a session (40_host_commands.md R128). -/
def sessionBeats (hex : Bool) (msg : List Byte) : List Beat :=
  beatsOf (if hex then hashHex msg else hash msg)

/-- B, the number of blocks of a message of `len` bytes (30_encoding.md R97). -/
def blockCount (len : Nat) : Nat := (len + 8) / 64 + 1

/-- The operations of one session: L + 2 commands, z PADZ, 1 PADZEND, 8 PADL, 64 B steps, B FEED and 16 or 32 POPs
(70_reset_and_hazards.md R251). -/
def sessionOps (hex : Bool) (len : Nat) : Nat :=
  (len + 2) + zeroCount len + 1 + 8 + 64 * blockCount len + blockCount len + (if hex then 32 else 16)

end Sys2Proof.Machine
end

