-- ==== Sys2Proof/Machine/Platform.lean ====
section
/-! DEFINITION. A platform of several CORE instances: each has its own complete copy of the state, its own ports and
its own reset, and they share no writable state (60_exceptions.md R222, 20_memory.md R76, R79). `NCORES` is the length of
the list, any number (00_scope.md R6). -/

namespace Sys2Proof.Machine

/-- The instances, in any fixed order; they have no identifier register (R222). -/
abbrev Platform := List State

/-- One step of an instance; an instance with no next state stays as it is. -/
def stepOrStay (s : State) : State := (nextState? (step s)).getD s

/-- One step of instance `k`. -/
def Platform.stepAt (p : Platform) (k : Nat) : Platform := p.modify k stepOrStay

end Sys2Proof.Machine
end

