-- ==== Sys2Proof/Safety.lean ====
section
/-! DEFINITION. What the statements mean by a well-formed state, a silent host and a run. -/

namespace Sys2Proof.Machine

/-- A session is in progress: PH is neither IDLE nor FAULT (00_scope.md R14). -/
def inSession (s : State) : Prop := s.ph ≠ .idle ∧ s.ph ≠ .fault

/-- The relations between PH, the fault registers and the sequencing registers that the operations keep
(10_state.md R25 to R36). -/
structure Inv (s : State) : Prop where
  /-- ERR is 1 exactly in phase FAULT (R36). -/
  err_iff_fault : s.err = true ↔ s.ph = .fault
  /-- With no fault recorded ECAUSE and EINFO are 0 (R35, 60_exceptions.md R212). -/
  clear_of_no_err : s.err = false → s.ecause = 0#2 ∧ s.einfo = 0#10
  /-- A recorded fault has cause 1 or 2 (R35). -/
  cause_of_err : s.err = true → s.ecause = 1#2 ∨ s.ecause = 2#2
  /-- fill is 0 to 63 while bytes are absorbed; no length byte is stored and fin is 0 (R27, R29, R30). -/
  absorb : s.ph = .absorb → s.fill.toNat < 64 ∧ s.lk = 0#4 ∧ s.fin = false
  /-- The same during the zero fill, with fin = 1. -/
  padz : s.ph = .padz → s.fill.toNat < 64 ∧ s.lk = 0#4 ∧ s.fin = true
  /-- PADL runs with lk = 0 to 7 and fill = 56 + lk (41_padding_packing.md R147). -/
  padl : s.ph = .padl → s.lk.toNat < 8 ∧ s.fill.toNat = 56 + s.lk.toNat ∧ s.fin = true
  /-- fill is 64 throughout COMP, i is 0 to 64, and lk is 0 or, after FINAL, 8 (R25, R27, 42_compression.md R168). -/
  comp : s.ph = .comp → s.fill = 64#7 ∧ s.i.toNat ≤ 64 ∧ (s.lk = 0#4 ∨ s.lk = 8#4 ∧ s.fin = true)
  /-- Phase OUT follows the last block only, and oi is at most the last beat's index (43_serializer.md R193, R194). -/
  out : s.ph = .out → s.i = 64#7 ∧ s.fill = 0#7 ∧ s.lk = 8#4 ∧ s.fin = true ∧ s.oi.toNat ≤ (lastBeat s.hexm).toNat
  /-- LEN counts whole bytes: LEN[2:0] = 0 (30_encoding.md R98). -/
  len_bytes : inSession s → s.len.toNat % 8 = 0

/-- The length field as far as PADL has stored it: byte k of LEN stands at BB[56 + k] for every k below lk, while the
last block is padded and compressed and until its digest is taken (20_memory.md R63). -/
def LengthFieldStored (s : State) : Prop :=
  s.ph = .padl ∨ s.ph = .comp ∨ s.ph = .out →
    ∀ k : Nat, k < s.lk.toNat → k < 8 → blockByte s.m (BitVec.ofNat 6 (56 + k)) = lenByte s.len k

/-- `t` is `s` after byte `v` of the padded message has been stored: the byte at offset fill is `v` and every other byte
of the block buffer is as before; fill has advanced; byte 63 copies A to D into a to d, clears i and enters COMP, any
other byte enters `np`; every other register is as before (41_padding_packing.md R144, 42_compression.md R161). -/
def StoredByte (v : Byte) (np : Phase) (s t : State) : Prop :=
  (∀ p : BitVec 6, blockByte t.m p = if p.toNat = s.fill.toNat then v else blockByte s.m p) ∧
    t = { s with
      m := t.m
      fill := s.fill + 1#7
      w := if s.fill.toNat = 63 then s.h else s.w
      i := if s.fill.toNat = 63 then 0#7 else s.i
      ph := if s.fill.toNat = 63 then .comp else np }

/-- The phase after an operation by the table of phase transitions (10_state.md R34); a request that waits, and
BLKSTART, leave it as it is. -/
def tablePhase (i : Instr) (s : State) : Phase :=
  match i, s.ph with
  | .rst, _ => .idle
  | .init _, .idle => .absorb
  | .init _, .absorb => .fault
  | .data _, .idle => .fault
  | .data _, .absorb => if s.fill = 63#7 then .comp else .absorb
  | .final, .idle => .fault
  | .final, .absorb => if s.fill = 63#7 then .comp else .padz
  | .padz, .padz => if s.fill = 63#7 then .comp else .padz
  | .padzend, .padz => .padl
  | .padl, .padl => if s.lk = 7#4 then .comp else .padl
  | .feed, .comp => if s.lk = 8#4 then .out else if s.fin then .padz else .absorb
  | .pop, .out => if s.oi = lastBeat s.hexm then .idle else .out
  | _, ph => ph

/-- The host makes no act and applies no reset; requests it already holds may still wait at the ports. -/
def HostSilent (s : State) : Prop := s.script = [] ∧ s.ports.rst = false

/-- `n` steps of the machine. -/
def run (n : Nat) (s : State) : Host.Outcome State Fault Refusal := Host.Core.run Sys2Proof.core n s

end Sys2Proof.Machine
end

