-- ==== Sys2Proof/Certificates/Slice0/Obligations.lean ====
section
/-! DEFINITION. The statements for the provers, one definition each; OBLIGATIONS.json says which rule of spec/ each rests
on. Statements about the content of a register use the contract's own functions (Machine/Contract.lean) or plain
arithmetic, not the helper the meaning calls. -/

open Sys2Proof Sys2Proof.Machine

/-! ### Encoding -/

/-- R95: every command word is exactly one of INIT (0x000, 0x001), DATA (0x100 to 0x1FF), FINAL (0x200) or illegal. -/
def Obligations.EveryCommandWordDecodesToOneClass : Prop :=
  ∀ cw : CmdWord,
    (cw.toNat ≤ 0x001 → decodeCmd cw = .ok (.init (cw.toNat == 1))) ∧
    (0x100 ≤ cw.toNat ∧ cw.toNat ≤ 0x1FF → decodeCmd cw = .ok (.data (BitVec.ofNat 8 (cw.toNat - 0x100)))) ∧
    (cw.toNat = 0x200 → decodeCmd cw = .ok .final) ∧
    ((0x002 ≤ cw.toNat ∧ cw.toNat ≤ 0x0FF) ∨ (0x201 ≤ cw.toNat ∧ cw.toNat ≤ 0x2FF) ∨
        (0x300 ≤ cw.toNat ∧ cw.toNat ≤ 0x3FF) →
      ∃ why, decodeCmd cw = .rejected why)

/-- Decoding gives back every operation that can be selected, from its own encoding; and in the formats whose words carry
operands (CMD, STEP) a word that decodes is the encoding of what it decodes to (R91 to R95, R100, R105, R107). -/
def Obligations.DecodingInvertsEncoding : Prop :=
  (∀ i : Instr, i.wellFormed = true → decode (encode i) = .ok i) ∧
  (∀ (cw : CmdWord) (i : Instr), decodeCmd cw = .ok i → encode i = .cmd cw) ∧
  (∀ x : BitVec 6, encode (decodeStep x) = .step x)

/-- Words written out from the spec's encodings, at least one of every format (R91 to R95, R100, R105). -/
def Obligations.SampleWordsDecode : Prop :=
  decodeCmd 0b0000000001#10 = .ok (.init true) ∧ decodeCmd 0b0100110001#10 = .ok (.data 0x31#8) ∧
  decodeCmd 0b1000000000#10 = .ok .final ∧ decodeCmd 0b1100000000#10 = .rejected .reservedOp ∧
  decodeCmd 0b0000000010#10 = .rejected .reservedInitBits ∧ decodeCmd 0b1000000001#10 = .rejected .reservedFinalBits ∧
  decodeReq 0b10#2 = .ok .rst ∧ decodeReq 0b11#2 = .ok .rst ∧ decodeReq 0b01#2 = .ok .pop ∧
  decodeSel 0b100000#6 = .ok .padz ∧ decodeSel 0b100100#6 = .ok .padzend ∧ decodeSel 0b010000#6 = .ok .padl ∧
  decodeSel 0b001010#6 = .ok .feed ∧
  decodeStep 0b001111#6 = .stepq0 15#4 ∧ decodeStep 0b010000#6 = .stepq1 0#4 ∧
  decodeStep 0b100101#6 = .stepq2 5#4 ∧ decodeStep 0b111111#6 = .stepq3 15#4

/-- R100: the quadrant selects the operation, the position is its operand, the message index follows the quadrant's
formula, and within a quadrant every index occurs exactly once. -/
def Obligations.RoundIndexSelectsStepAndWord : Prop :=
  (∀ i : BitVec 6,
    (i.toNat < 16 → decodeStep i = .stepq0 (BitVec.ofNat 4 i.toNat) ∧ (indexQ0 i).toNat = i.toNat) ∧
    (16 ≤ i.toNat ∧ i.toNat < 32 →
      decodeStep i = .stepq1 (BitVec.ofNat 4 (i.toNat - 16)) ∧ (indexQ1 i).toNat = (5 * i.toNat + 1) % 16) ∧
    (32 ≤ i.toNat ∧ i.toNat < 48 →
      decodeStep i = .stepq2 (BitVec.ofNat 4 (i.toNat - 32)) ∧ (indexQ2 i).toNat = (3 * i.toNat + 5) % 16) ∧
    (48 ≤ i.toNat → decodeStep i = .stepq3 (BitVec.ofNat 4 (i.toNat - 48)) ∧ (indexQ3 i).toNat = 7 * i.toNat % 16)) ∧
  (∀ r r' : BitVec 4,
    (indexQ0 (0#2 ++ r) = indexQ0 (0#2 ++ r') → r = r') ∧ (indexQ1 (1#2 ++ r) = indexQ1 (1#2 ++ r') → r = r') ∧
    (indexQ2 (2#2 ++ r) = indexQ2 (2#2 ++ r') → r = r') ∧ (indexQ3 (3#2 ++ r) = indexQ3 (3#2 ++ r') → r = r'))

/-! ### Operands and renderings -/

/-- R11: rotation by 0 < n < 32, and the range of every amount that occurs. -/
def Obligations.RotationMovesTopBitsToBottom : Prop :=
  (∀ (x : Word) (n : Nat), 0 < n → n < 32 →
    (rotl32 x n).toNat = (x.toNat * 2 ^ n % 2 ^ 32) ||| (x.toNat / 2 ^ (32 - n)) ∧ rotl32 x n = x.rotateLeft n) ∧
  (∀ i : BitVec 6, 4 ≤ (amountS i).toNat ∧ (amountS i).toNat ≤ 23)

/-- R68: the byte view of the block buffer, a byte write, and a word read. -/
def Obligations.BlockBufferByteAndWordViewsAgree : Prop :=
  (∀ (m : Vector Word 16) (p : BitVec 6),
    blockByte m p = (m.toList.getD (p.toNat / 4) 0).extractLsb' (8 * (p.toNat % 4)) 8) ∧
  (∀ (m : Vector Word 16) (p q : BitVec 6) (v : Byte),
    blockByte (storeBlockByte m p v) q = if q = p then v else blockByte m q) ∧
  (∀ (m : Vector Word 16) (j : BitVec 4),
    blockWord m j = blockByte m (j ++ 3#2) ++ blockByte m (j ++ 2#2) ++ blockByte m (j ++ 1#2) ++ blockByte m (j ++ 0#2))

/-- R190, R191: the beats' data are the digest bytes and the characters of the contract's renderings, 16 and 32 of
them, each word least significant byte first. -/
def Obligations.OutputBytesAreTheRenderings : Prop :=
  ∀ h : Quad,
    (serialize h).length = 16 ∧ (hexstr (serialize h)).length = 32 ∧
    (∀ w k : BitVec 2, (serialize h)[4 * w.toNat + k.toNat]? = some ((h.word w).extractLsb' (8 * k.toNat) 8)) ∧
    (∀ n : BitVec 4, (serialize h)[n.toNat]? = some (digestByte h n)) ∧
    (∀ n : BitVec 5, (hexstr (serialize h))[n.toNat]? = some (hexChar h n))

/-- R192: the digit's character, its code, and no upper-case letter. -/
def Obligations.HexDigitIsLowercaseAscii : Prop :=
  ∀ v : BitVec 4,
    (v.toNat ≤ 9 → hexdigit v = 0x30#8 + v.setWidth 8) ∧ (10 ≤ v.toNat → hexdigit v = 0x57#8 + v.setWidth 8) ∧
    (hexdigit v).toNat =
      (['0', '1', '2', '3', '4', '5', '6', '7', '8', '9', 'a', 'b', 'c', 'd', 'e', 'f'].getD v.toNat ' ').toNat ∧
    ¬ (0x41 ≤ (hexdigit v).toNat ∧ (hexdigit v).toNat ≤ 0x46)

/-- R141: the invariants of the padded message, for every message. -/
def Obligations.PaddedMessageIsWholeBlocks : Prop :=
  ∀ msg : List Byte,
    (pad msg).length % 64 = 0 ∧ 0 < (pad msg).length ∧ msg.length < (pad msg).length ∧
    (pad msg).length = msg.length + zeroCount msg.length + 9 ∧
    (pad msg).length = 64 * ((msg.length + 8) / 64 + 1) ∧
    msg.length + 9 ≤ (pad msg).length ∧ (pad msg).length ≤ msg.length + 72 ∧
    (pad msg).take msg.length = msg ∧ (pad msg)[msg.length]? = some 0x80#8

/-- R98: the length field is the bit count modulo 2^64, least significant byte first, and its low three bits are 0. -/
def Obligations.LengthFieldIsTheBitCount : Prop :=
  ∀ len : Nat,
    (lengthField len).length = 8 ∧
    (∀ k : Nat, k < 8 → ((lengthField len).getD k 0).toNat = 8 * len % 2 ^ 64 / 2 ^ (8 * k) % 256) ∧
    (BitVec.ofNat 64 (8 * len)).extractLsb' 0 3 = 0

/-! ### The host commands -/

/-- R123: INIT in phase IDLE. -/
def Obligations.InitBeginsASession : Prop :=
  ∀ (hex : Bool) (s : State), s.ph = .idle →
    exec (.init hex) s = .next
      { s with
        ports := { s.ports with cmd := none }
        h := ⟨0x67452301#32, 0xefcdab89#32, 0x98badcfe#32, 0x10325476#32⟩
        len := 0#64, fill := 0#7, lk := 0#4, fin := false, hexm := hex, oi := 0#6, ph := .absorb }

/-- R124: DATA in phase ABSORB counts 8 bits modulo 2^64 and stores the byte; nothing else changes. -/
def Obligations.DataStoresTheByteAndCounts : Prop :=
  ∀ (d : Byte) (s : State), s.ph = .absorb → s.fill.toNat < 64 →
    ∃ t, exec (.data d) s = .next t ∧
      t.len.toNat = (s.len.toNat + 8) % 2 ^ 64 ∧
      StoredByte d .absorb { s with ports := { s.ports with cmd := none }, len := t.len } t

/-- R125: FINAL in phase ABSORB sets fin and stores the marker 0x80; LEN does not change. -/
def Obligations.FinalStoresTheMarker : Prop :=
  ∀ s : State, s.ph = .absorb → s.fill.toNat < 64 →
    ∃ t, exec .final s = .next t ∧
      StoredByte 0x80#8 .padz { s with ports := { s.ports with cmd := none }, fin := true } t

/-- R212, R214: a legal command accepted in the other ready phase raises BAD_PHASE with the four writes of the fault entry
and none of its normal effect. -/
def Obligations.CommandInTheWrongPhaseFaults : Prop :=
  ∀ s : State,
    (s.ph = .absorb → ∀ hex : Bool, exec (.init hex) s = .next
      { s with
        ports := { s.ports with cmd := none }
        err := true, ecause := 2#2, einfo := BitVec.ofNat 10 hex.toNat, ph := .fault }) ∧
    (s.ph = .idle → ∀ d : Byte, exec (.data d) s = .next
      { s with
        ports := { s.ports with cmd := none }
        err := true, ecause := 2#2, einfo := BitVec.ofNat 10 (0x100 + d.toNat), ph := .fault }) ∧
    (s.ph = .idle → exec .final s = .next
      { s with
        ports := { s.ports with cmd := none }
        err := true, ecause := 2#2, einfo := 0x200#10, ph := .fault })

/-- R214: the acceptance of a faulting command word, illegal (cause 1) or out of phase (cause 2), makes exactly the four
writes of the fault entry, and the status outputs show it. The word leaves the port, as every accepted word does. -/
def Obligations.FaultEntryMakesFourWrites : Prop :=
  ∀ (s : State) (cw : CmdWord), s.ports.rst = false → cmdReady s = true → s.ports.cmd = some cw →
    ((∃ why, decodeCmd cw = .rejected why) ∨ (∃ hex, decodeCmd cw = .ok (.init hex)) ∧ s.ph = .absorb ∨
        ((∃ d, decodeCmd cw = .ok (.data d)) ∨ decodeCmd cw = .ok .final) ∧ s.ph = .idle) →
    ∃ t, coreMove s = .next t ∧
      t = { s with
        ports := { s.ports with cmd := none }
        err := true
        ecause := if (decodeCmd cw).instr? = none then 1#2 else 2#2
        einfo := cw
        ph := .fault } ∧
      errOut t = true ∧ cmdReady t = false ∧ ecauseOut t = t.ecause ∧ einfoOut t = cw

/-- R122, R193: a command while `cmd_ready` = 0 and a pop while `out_valid` = 0 wait: nothing changes, the request stays
at its port. That waiting is a next state is the model's choice (log entry 6). -/
def Obligations.RequestsWaitWhileNotReady : Prop :=
  ∀ s : State,
    (cmdReady s = false →
      (∀ hex, exec (.init hex) s = .next s) ∧ (∀ d, exec (.data d) s = .next s) ∧ exec .final s = .next s) ∧
    (outValid s = false → exec .pop s = .next s)

/-! ### The padding operations -/

/-- R145: PADZ appends one zero byte. -/
def Obligations.PadzAppendsAZeroByte : Prop :=
  ∀ s : State, s.ph = .padz → s.fill ≠ 56#7 → s.fill.toNat < 64 →
    ∃ t, exec .padz s = .next t ∧ StoredByte 0x00#8 .padz s t

/-- R146: PADZEND enters PADL and writes nothing else. -/
def Obligations.PadzendEntersTheLengthField : Prop :=
  ∀ s : State, s.ph = .padz → s.fill = 56#7 → exec .padzend s = .next { s with ph := .padl }

/-- R147: PADL stores byte lk of LEN, least significant first, and advances lk. -/
def Obligations.PadlStoresTheNextLengthByte : Prop :=
  ∀ s : State, s.ph = .padl → s.lk.toNat < 8 → s.fill.toNat < 64 →
    ∃ t, exec .padl s = .next t ∧
      StoredByte (BitVec.ofNat 8 (s.len.toNat / 2 ^ (8 * s.lk.toNat))) .padl { s with lk := s.lk + 1#4 } t

/-! ### The compression engine -/

/-- The writes of R161: BLKSTART copies A to D into a to d and clears i; A to D, M and every other register are unchanged.
R161 does not enable BLKSTART on its own; that the model's lone BLKSTART answers a next state, and on every state, is the
model's choice (log entry 9, DEDUCED). A run performs it as the tail of a byte store alone. -/
def Obligations.BlkstartCopiesTheDigestState : Prop :=
  ∀ s : State, exec .blkstart s = .next { s with w := s.h, i := 0#7 }

/-- R162 to R167: the four step operations, with the quadrant's function and message index, all right-hand sides old
values; only a to d and i change. -/
def Obligations.StepOperationsPerformTheRound : Prop :=
  ∀ (r : BitVec 4) (s : State), s.ph = .comp →
    (s.i.toNat = r.toNat → exec (.stepq0 r) s = .next
      { s with
        w := ⟨s.w.d,
          s.w.b + (((s.w.b &&& s.w.c) ||| (~~~s.w.b &&& s.w.d)) + s.w.a + constK (BitVec.ofNat 6 s.i.toNat) +
            s.m.toList.getD s.i.toNat 0).rotateLeft (amountS (BitVec.ofNat 6 s.i.toNat)).toNat,
          s.w.b, s.w.c⟩
        i := s.i + 1#7 }) ∧
    (s.i.toNat = 16 + r.toNat → exec (.stepq1 r) s = .next
      { s with
        w := ⟨s.w.d,
          s.w.b + (((s.w.d &&& s.w.b) ||| (~~~s.w.d &&& s.w.c)) + s.w.a + constK (BitVec.ofNat 6 s.i.toNat) +
            s.m.toList.getD ((5 * s.i.toNat + 1) % 16) 0).rotateLeft (amountS (BitVec.ofNat 6 s.i.toNat)).toNat,
          s.w.b, s.w.c⟩
        i := s.i + 1#7 }) ∧
    (s.i.toNat = 32 + r.toNat → exec (.stepq2 r) s = .next
      { s with
        w := ⟨s.w.d,
          s.w.b + ((s.w.b ^^^ s.w.c ^^^ s.w.d) + s.w.a + constK (BitVec.ofNat 6 s.i.toNat) +
            s.m.toList.getD ((3 * s.i.toNat + 5) % 16) 0).rotateLeft (amountS (BitVec.ofNat 6 s.i.toNat)).toNat,
          s.w.b, s.w.c⟩
        i := s.i + 1#7 }) ∧
    (s.i.toNat = 48 + r.toNat → exec (.stepq3 r) s = .next
      { s with
        w := ⟨s.w.d,
          s.w.b + ((s.w.c ^^^ (s.w.b ||| ~~~s.w.d)) + s.w.a + constK (BitVec.ofNat 6 s.i.toNat) +
            s.m.toList.getD (7 * s.i.toNat % 16) 0).rotateLeft (amountS (BitVec.ofNat 6 s.i.toNat)).toNat,
          s.w.b, s.w.c⟩
        i := s.i + 1#7 })

/-- R168: FEED adds a to d into A to D modulo 2^32, empties the block and chooses the next phase. -/
def Obligations.FeedAddsAndChoosesThePhase : Prop :=
  ∀ s : State, s.ph = .comp → s.i = 64#7 →
    exec .feed s = .next
      { s with
        h := ⟨s.h.a + s.w.a, s.h.b + s.w.b, s.h.c + s.w.c, s.h.d + s.w.d⟩
        fill := 0#7
        oi := if s.lk = 8#4 then 0#6 else s.oi
        ph := if s.lk = 8#4 then .out else if s.fin then .padz else .absorb }

/-! ### Output and reset -/

/-- R193: POP returns the beat at oi of the session's rendering, with `last` on beat 15 or 31 only, advances oi, and
the last beat ends the session. -/
def Obligations.PopReturnsTheNextBeat : Prop :=
  ∀ s : State, s.ph = .out → s.oi.toNat ≤ (if s.hexm then 31 else 15) →
    exec .pop s = .next
      { s with
        ports := { s.ports with pop := false }
        beats := s.beats ++
          [BitVec.ofBool (s.oi.toNat == if s.hexm then 31 else 15) ++
            (if s.hexm then hexstr (serialize s.h) else serialize s.h).getD s.oi.toNat 0]
        oi := s.oi + 1#6
        ph := if s.oi.toNat = (if s.hexm then 31 else 15) then .idle else .out }

/-- R240: RST, from every state, reaches IDLE with the fault registers clear, answers no other request, and leaves
nothing of the other registers: two states that differ in them alone have the same successor. What the successor holds
in them is a free value (log entry 2). -/
def Obligations.RstReachesIdleAndForgets : Prop :=
  (∀ s : State, ∃ t, exec .rst s = .next t ∧ t.ph = .idle ∧ t.err = false ∧ t.ecause = 0#2 ∧ t.einfo = 0#10 ∧
    cmdReady t = true ∧ outValid t = false ∧ busy t = false ∧
    t.ports = { s.ports with rst := false } ∧ t.script = s.script ∧ t.beats = s.beats) ∧
  (∀ s s' : State, s.draws = s'.draws → s.ports = s'.ports → s.script = s'.script → s.beats = s'.beats →
    exec .rst s = exec .rst s')

/-- R40: what reset leaves, as far as the spec gives it, and the status outputs after it. -/
def Obligations.ResetStateIsIdleAndClear : Prop :=
  State.reset.ph = .idle ∧ State.reset.err = false ∧ State.reset.ecause = 0 ∧ State.reset.einfo = 0 ∧
  cmdReady State.reset = true ∧ outValid State.reset = false ∧ busy State.reset = false ∧
  errOut State.reset = false ∧ ecauseOut State.reset = 0 ∧ einfoOut State.reset = 0

/-! ### Where a meaning stops -/

/-- R13, U14: an internal operation performed outside its "Enabled when" condition has no step, and a register value no
rule produces has no successor. The names of the stops are the model's (log entry 7). -/
def Obligations.OperationsStopWhereTheyHaveNoStep : Prop :=
  ∀ s : State,
    (¬ (s.ph = .padz ∧ s.fill ≠ 56#7) → exec .padz s = .fault .notEnabled) ∧
    (¬ (s.ph = .padz ∧ s.fill = 56#7) → exec .padzend s = .fault .notEnabled) ∧
    (s.ph ≠ .padl → exec .padl s = .fault .notEnabled) ∧
    (¬ (s.ph = .comp ∧ s.i = 64#7) → exec .feed s = .fault .notEnabled) ∧
    (∀ r : BitVec 4,
      (¬ (s.ph = .comp ∧ s.i.toNat = r.toNat) → exec (.stepq0 r) s = .fault .notEnabled) ∧
      (¬ (s.ph = .comp ∧ s.i.toNat = 16 + r.toNat) → exec (.stepq1 r) s = .fault .notEnabled) ∧
      (¬ (s.ph = .comp ∧ s.i.toNat = 32 + r.toNat) → exec (.stepq2 r) s = .fault .notEnabled) ∧
      (¬ (s.ph = .comp ∧ s.i.toNat = 48 + r.toNat) → exec (.stepq3 r) s = .fault .notEnabled)) ∧
    (64 ≤ s.fill.toNat →
      (s.ph = .absorb → (∀ d, exec (.data d) s = .fault .unreachedValue) ∧ exec .final s = .fault .unreachedValue) ∧
      (s.ph = .padz → exec .padz s = .fault .unreachedValue) ∧
      (s.ph = .padl → exec .padl s = .fault .unreachedValue)) ∧
    (s.ph = .padl → 8 ≤ s.lk.toNat → exec .padl s = .fault .unreachedValue) ∧
    (s.ph = .out → (if s.hexm then 31 else 15) < s.oi.toNat → exec .pop s = .fault .unreachedValue)

/-! ### Frames over all operations -/

/-- R20, column "written by": no operation changes a register it is not listed for; the fault registers change by RST
and by a fault entry only. -/
def Obligations.RegistersChangeOnlyByTheirWriters : Prop :=
  ∀ (i : Instr) (s t : State), exec i s = .next t →
    (i.mnemonic ∉ ["INIT", "FEED", "RST"] → t.h = s.h) ∧
    (i.mnemonic ∉ ["DATA", "FINAL", "PADZ", "PADL", "BLKSTART", "STEPQ0", "STEPQ1", "STEPQ2", "STEPQ3", "RST"] →
      t.w = s.w ∧ t.i = s.i) ∧
    (i.mnemonic ∉ ["DATA", "FINAL", "PADZ", "PADL", "RST"] → ∀ p, blockByte t.m p = blockByte s.m p) ∧
    (i.mnemonic ∉ ["INIT", "DATA", "FINAL", "PADZ", "PADL", "FEED", "RST"] → t.fill = s.fill) ∧
    (i.mnemonic ∉ ["INIT", "DATA", "RST"] → t.len = s.len) ∧
    (i.mnemonic ∉ ["INIT", "PADL", "RST"] → t.lk = s.lk) ∧
    (i.mnemonic ∉ ["INIT", "FINAL", "RST"] → t.fin = s.fin) ∧
    (i.mnemonic ∉ ["INIT", "RST"] → t.hexm = s.hexm) ∧
    (i.mnemonic ∉ ["INIT", "FEED", "POP", "RST"] → t.oi = s.oi) ∧
    (i.mnemonic ∉ ["INIT", "DATA", "FINAL", "RST"] → t.err = s.err ∧ t.ecause = s.ecause ∧ t.einfo = s.einfo) ∧
    (i.mnemonic ≠ "RST" → t.ph ≠ .fault → t.err = s.err ∧ t.ecause = s.ecause ∧ t.einfo = s.einfo) ∧
    (i.mnemonic ∉ ["INIT", "DATA", "FINAL"] → t.ports.cmd = s.ports.cmd) ∧
    (i.mnemonic ≠ "POP" → t.ports.pop = s.ports.pop ∧ t.beats = s.beats) ∧
    (i.mnemonic ≠ "RST" → t.ports.rst = s.ports.rst ∧ t.draws = s.draws) ∧
    t.script = s.script

/-- R34: the phase after every operation is the one the table of phase transitions gives. -/
def Obligations.PhasesFollowTheTransitionTable : Prop :=
  ∀ (i : Instr) (s t : State), Inv s → exec i s = .next t → t.ph = tablePhase i s

/-! ### The sequencer and the step -/

/-- R33, R105: the internal operation each phase enables. -/
def Obligations.PhaseSelectsTheInternalOperation : Prop :=
  ∀ s : State,
    (s.ph = .padz → s.fill ≠ 56#7 → selectInternal s = some .padz) ∧
    (s.ph = .padz → s.fill = 56#7 → selectInternal s = some .padzend) ∧
    (s.ph = .padl → selectInternal s = some .padl) ∧
    (s.ph = .comp → s.i.toNat < 64 → selectInternal s = some (decodeStep (BitVec.ofNat 6 s.i.toNat))) ∧
    (s.ph = .comp → s.i = 64#7 → selectInternal s = some .feed) ∧
    (s.ph = .comp → 64 < s.i.toNat → selectInternal s = none) ∧
    (s.ph = .idle ∨ s.ph = .absorb ∨ s.ph = .out ∨ s.ph = .fault → selectInternal s = none)

/-- A step is the host's move and then the operation that the requests and the state select: RST before everything, then
the enabled internal operation, then the command word offered to a ready CORE, decoded, then the pop request in phase
OUT; where none is enabled CORE waits. The host's move and the wait as a next state are the model's (log entries 3, 6
and 8). -/
def Obligations.StepPerformsTheSelectedOperation : Prop :=
  ∀ s s' : State, hostMove s = s' →
    (s'.ports.rst = true → step s = exec .rst s') ∧
    (s'.ports.rst = false →
      (∀ i, selectInternal s' = some i → step s = exec i s') ∧
      (cmdReady s' = true → ∀ cw, s'.ports.cmd = some cw →
        (∀ i, decodeCmd cw = .ok i → step s = exec i s') ∧
        (∀ why, decodeCmd cw = .rejected why → step s = .next
          { s' with
            ports := { s'.ports with cmd := none }
            err := true, ecause := 1#2, einfo := cw, ph := .fault })) ∧
      (cmdReady s' = true → s'.ports.cmd = none → step s = .next s') ∧
      (outValid s' = true → s'.ports.pop = true → step s = exec .pop s') ∧
      (outValid s' = true → s'.ports.pop = false → step s = .next s') ∧
      (s'.ph = .comp → 64 < s'.i.toNat → step s = .next s'))

/-- The operation of a row's word, placed by `withFetchWord`, is the one the next step performs, and placing it changes no
register of the digest, the block buffer or the fault registers. How an operation is placed is the model's convention
(log entries 4 and 5). -/
def Obligations.PlacedWordRunsInTheNextStep : Prop :=
  ∀ (s : State) (nbits w : Nat) (i : Instr), decodeTableWord nbits w = some i →
    step (s.withFetchWord nbits w) = exec i (hostMove (s.withFetchWord nbits w)) ∧
    (s.script = [] → hostMove (s.withFetchWord nbits w) = s.withFetchWord nbits w) ∧
    (s.withFetchWord nbits w).h = s.h ∧ (s.withFetchWord nbits w).w = s.w ∧ (s.withFetchWord nbits w).m = s.m ∧
    (s.withFetchWord nbits w).len = s.len ∧ (s.withFetchWord nbits w).fin = s.fin ∧
    (s.withFetchWord nbits w).hexm = s.hexm ∧ (s.withFetchWord nbits w).err = s.err ∧
    (s.withFetchWord nbits w).ecause = s.ecause ∧ (s.withFetchWord nbits w).einfo = s.einfo ∧
    (s.withFetchWord nbits w).beats = s.beats

/-- R215, R216: in phase FAULT nothing but RST is enabled; every other request waits and nothing changes (the wait as a next state: log entry 6). -/
def Obligations.FaultPhaseEnablesOnlyReset : Prop :=
  ∀ s : State, s.ph = .fault →
    selectInternal s = none ∧ cmdReady s = false ∧ outValid s = false ∧
    (s.ports.rst = false → coreMove s = .next s) ∧ (s.ports.rst = true → coreMove s = exec .rst s)

/-- R212: a protocol fault is raised by the acceptance of a command word and by nothing else, with that word in EINFO,
cause 1 for a word that does not decode and cause 2 for one that does. -/
def Obligations.FaultsComeOnlyFromAcceptedWords : Prop :=
  ∀ s t : State, step s = .next t → s.err = false → t.err = true →
    ∃ cw : CmdWord, (hostMove s).ports.cmd = some cw ∧ cmdReady s = true ∧ (hostMove s).ports.rst = false ∧
      t = { hostMove s with
        ports := { (hostMove s).ports with cmd := none }
        err := true
        ecause := if (decodeCmd cw).instr? = none then 1#2 else 2#2
        einfo := cw
        ph := .fault }

/-- R122, R254: an offered command word stays at the port until it is accepted, which a ready CORE alone does, or the
host withdraws it. -/
def Obligations.OfferedWordIsHeldUntilAccepted : Prop :=
  ∀ (s t : State) (cw : CmdWord), step s = .next t → s.ports.cmd = some cw →
    (∀ (c p : Bool) (rest : List HostAct), s.script ≠ .withdraw c p :: rest) →
    t.ports.cmd = some cw ∨ (cmdReady s = true ∧ t.ports.cmd = none)

/-- R21, R194: the host sees the digest state through the beats of POP alone, and those come in phase OUT only, one at a
time, each the next of the session's rendering. -/
def Obligations.BeatsComeFromPopInPhaseOut : Prop :=
  ∀ s t : State, step s = .next t →
    t.beats = s.beats ∨
      s.ph = .out ∧ (hostMove s).ports.pop = true ∧ t.oi = s.oi + 1#6 ∧ t.h = s.h ∧
        ∃ last : Bool, t.beats = s.beats ++
          [BitVec.ofBool last ++ (if s.hexm then hexstr (serialize s.h) else serialize s.h).getD s.oi.toNat 0]

/-- R108: the line `rst` of a host program. The host does not act while an operation of the lines before it can still be
performed; once none can, it withdraws what still waits and applies the reset input. The acts of the line are the
model's choice (log entry 12). -/
def Obligations.ResetLineWaitsForTheLinesBefore : Prop :=
  ∀ (s : State) (rest : List HostAct), Inv s → s.ports.rst = false → s.script = ProgramLine.rst.acts ++ rest →
    (busy s = true ∨ (cmdReady s = true ∧ s.ports.cmd ≠ none) ∨ (outValid s = true ∧ s.ports.pop = true) →
      hostMove s = s) ∧
    (busy s = false → (cmdReady s = true → s.ports.cmd = none) → (outValid s = true → s.ports.pop = false) →
      run 3 s = exec .rst { s with ports := ⟨none, false, true⟩, script := rest })

/-! ### Invariants -/

/-- The reset state meets both invariants. What they say of the registers that the spec leaves unspecified at reset holds
whatever their values, except where phase IDLE or ERR = 0 decides it. -/
def Obligations.ResetMeetsTheInvariants : Prop := Inv State.reset ∧ LengthFieldStored State.reset

/-- Every step keeps the invariant of phase, fault registers and counters, from every state that has it, whatever the
host does. -/
def Obligations.StepKeepsTheInvariant : Prop :=
  ∀ s t : State, Inv s → step s = .next t → Inv t

/-- R210, R252: from every state with the invariant a step answers a next state: no operation stops, whatever the message
bytes, the length and the host's requests are. -/
def Obligations.EveryWellFormedStateSteps : Prop :=
  ∀ s : State, Inv s → ∃ t, step s = .next t

/-- R63: the length bytes stored so far stand in the buffer least significant first, through padding, compression and
output. -/
def Obligations.StepKeepsTheStoredLengthField : Prop :=
  ∀ s t : State, Inv s → LengthFieldStored s → step s = .next t → LengthFieldStored t

/-- R63: in the last block M[14] = LEN[31:0] and M[15] = LEN[63:32]. -/
def Obligations.LastBlockHoldsTheLength : Prop :=
  ∀ s : State, LengthFieldStored s → s.ph = .comp → s.lk = 8#4 →
    blockWord s.m 14 = s.len.extractLsb' 0 32 ∧ blockWord s.m 15 = s.len.extractLsb' 32 32

/-- R36: exactly one of `cmd_ready`, `out_valid`, `busy`, `err` is 1. -/
def Obligations.ExactlyOneStatusOutputIsSet : Prop :=
  ∀ s : State, Inv s →
    [cmdReady s, outValid s, busy s, errOut s].count true = 1 ∧
    (cmdReady s = true ↔ s.ph = .idle ∨ s.ph = .absorb) ∧ (outValid s = true ↔ s.ph = .out) ∧
    (busy s = true ↔ s.ph = .padz ∨ s.ph = .padl ∨ s.ph = .comp) ∧ (errOut s = true ↔ s.ph = .fault)

/-! ### Whole-machine results -/

/-- R173: from what BLKSTART leaves, exactly 65 operations follow, and A to D then hold the contract's compression of the
block. A command word and a pop request may wait at the ports meanwhile. -/
def Obligations.SixtyFiveOperationsCompressTheBlock : Prop :=
  ∀ s : State, s.ph = .comp → s.i = 0#7 → s.w = s.h → HostSilent s →
    ∃ t, run 65 s = .next t ∧ t.h = compress s.h s.m ∧ t.i = 64#7 ∧ t.fill = 0#7 ∧
      t.ph = (if s.lk = 8#4 then .out else if s.fin then .padz else .absorb) ∧
      t.m = s.m ∧ t.len = s.len ∧ t.lk = s.lk ∧ t.fin = s.fin ∧ t.hexm = s.hexm ∧ t.ports = s.ports ∧
      t.err = s.err ∧ t.ecause = s.ecause ∧ t.einfo = s.einfo ∧ t.beats = s.beats

/-- R128, R251: from any state in phase IDLE, whatever the other registers hold, a host that issues the conforming session
for a message gets the beats of `hash` or `hash_hex` of that message, after exactly the counted operations, and CORE is in
phase IDLE again with no fault raised. That an enabled operation is performed at once is the step's own fairness
(R252, log entry 8). -/
def Obligations.SessionDeliversTheDigest : Prop :=
  ∀ (hex : Bool) (msg : List Byte) (s : State),
    s.ph = .idle → s.ports = Ports.none → s.script = session hex msg →
    ∃ t, run (sessionOps hex msg.length) s = .next t ∧
      t.beats = s.beats ++ sessionBeats hex msg ∧ t.ph = .idle ∧ t.ports = Ports.none ∧ t.script = [] ∧
      t.err = s.err ∧ t.ecause = s.ecause ∧ t.einfo = s.einfo

/-- R38, R41: what CORE gives out depends on nothing an earlier session, or reset, left in the data registers and
counters: two instances in phase IDLE with the same fault registers and the same host give the same beats and status
outputs after any number of steps, whatever the host does, misuse and resets included. -/
def Obligations.OldRegisterContentsNeverShow : Prop :=
  ∀ (n : Nat) (s s' t : State), s.ph = .idle → s'.ph = .idle →
    s.err = s'.err → s.ecause = s'.ecause → s.einfo = s'.einfo → s.draws = s'.draws →
    s.ports = s'.ports → s.script = s'.script → s.beats = s'.beats →
    run n s = .next t →
    ∃ t', run n s' = .next t' ∧ t'.beats = t.beats ∧ t'.ph = t.ph ∧ t'.err = t.err ∧ t'.ecause = t.ecause ∧
      t'.einfo = t.einfo ∧ t'.ports = t.ports ∧ t'.script = t.script

/-- R252: with the host silent CORE is no longer busy after at most 202 operations, and after at most 65 where the message
has not ended. That a step performs the enabled operation is the model's (log entry 8). -/
def Obligations.BusyPhasesEndWithinTheBound : Prop :=
  ∀ s : State, Inv s → HostSilent s →
    (∃ n t, n ≤ 202 ∧ run n s = .next t ∧ busy t = false) ∧
    (s.fin = false → ∃ n t, n ≤ 65 ∧ run n s = .next t ∧ busy t = false)

/-- R79, R222: the steps of different instances commute, and a step of one changes no other. -/
def Obligations.InstancesDoNotInterfere : Prop :=
  ∀ (p : Platform) (j k : Nat), j ≠ k →
    (p.stepAt j).stepAt k = (p.stepAt k).stepAt j ∧ (p.stepAt j)[k]? = p[k]? ∧
    (p.stepAt j)[j]? = p[j]?.map stepOrStay ∧ (p.stepAt j).length = p.length
end

