-- ==== Sys2Proof/Laws/Block.lean ====
section
/-! SUPPORT. The laws of the block buffer: byte lanes of a word, and a byte read after a byte store. -/

namespace Sys2Proof.Machine

/-- A lane number is 0, 1, 2 or 3. -/
theorem lane_cases (k : BitVec 2) : k = 0 ∨ k = 1 ∨ k = 2 ∨ k = 3 := by revert k; decide

/-- A lane read after a write of the same lane gives the byte written. -/
@[simp] theorem byteLane_setByteLane_same (x : Word) (k : BitVec 2) (v : Byte) :
    byteLane (setByteLane x k v) k = v := by
  rcases lane_cases k with rfl | rfl | rfl | rfl <;>
    (apply BitVec.eq_of_getLsbD_eq; intro j hj; simp [byteLane, setByteLane]; interval_cases j <;> simp)

/-- A lane write leaves every other lane alone. -/
theorem byteLane_setByteLane_other (x : Word) {k j : BitVec 2} (v : Byte) (h : j ≠ k) :
    byteLane (setByteLane x k v) j = byteLane x j := by
  rcases lane_cases k with rfl | rfl | rfl | rfl <;> rcases lane_cases j with rfl | rfl | rfl | rfl <;>
    first
      | exact absurd rfl h
      | (apply BitVec.eq_of_getLsbD_eq; intro b hb; simp [byteLane, setByteLane]; interval_cases b <;> simp)

/-- A word read after a byte store: the addressed word has the lane replaced, every other word is unchanged. -/
theorem blockWord_storeBlockByte (m : Vector Word 16) (p : BitVec 6) (v : Byte) (g : BitVec 4) :
    blockWord (storeBlockByte m p v) g =
      if g = p.extractLsb' 2 4 then setByteLane (blockWord m g) (p.extractLsb' 0 2) v else blockWord m g := by
  simp only [blockWord, storeBlockByte, Vector.getElem_set]
  by_cases h : g = p.extractLsb' 2 4
  · subst h; simp
  · rw [if_neg h, if_neg]
    exact fun e => h (BitVec.eq_of_toNat_eq e.symm)

/-- Two byte offsets with the same word and the same lane are equal. -/
theorem offset_ext {p q : BitVec 6} (hw : p.extractLsb' 2 4 = q.extractLsb' 2 4)
    (hl : p.extractLsb' 0 2 = q.extractLsb' 0 2) : p = q := by
  revert p q; decide

/-- A byte read after a store to the same offset gives the byte stored. -/
@[simp] theorem blockByte_storeBlockByte_same (m : Vector Word 16) (p : BitVec 6) (v : Byte) :
    blockByte (storeBlockByte m p v) p = v := by
  simp [blockByte, blockWord_storeBlockByte]

/-- A byte store leaves every other offset alone. -/
theorem blockByte_storeBlockByte_other (m : Vector Word 16) {p q : BitVec 6} (v : Byte) (h : q ≠ p) :
    blockByte (storeBlockByte m p v) q = blockByte m q := by
  simp only [blockByte, blockWord_storeBlockByte]
  split
  · next hw => exact byteLane_setByteLane_other _ v fun hl => h (offset_ext hw hl)
  · rfl

end Sys2Proof.Machine
end

