-- ==== Sys2Proof/Laws/State.lean ====
section
/-! SUPPORT. One lemma per field for every named update of a state, each true by unfolding once. -/

namespace Sys2Proof.Machine

/-! ### Taking the command word off its port -/

@[simp] theorem takeCmd_h (s : State) : (s.takeCmd).h = s.h := rfl
@[simp] theorem takeCmd_w (s : State) : (s.takeCmd).w = s.w := rfl
@[simp] theorem takeCmd_m (s : State) : (s.takeCmd).m = s.m := rfl
@[simp] theorem takeCmd_i (s : State) : (s.takeCmd).i = s.i := rfl
@[simp] theorem takeCmd_fill (s : State) : (s.takeCmd).fill = s.fill := rfl
@[simp] theorem takeCmd_len (s : State) : (s.takeCmd).len = s.len := rfl
@[simp] theorem takeCmd_lk (s : State) : (s.takeCmd).lk = s.lk := rfl
@[simp] theorem takeCmd_fin (s : State) : (s.takeCmd).fin = s.fin := rfl
@[simp] theorem takeCmd_hexm (s : State) : (s.takeCmd).hexm = s.hexm := rfl
@[simp] theorem takeCmd_oi (s : State) : (s.takeCmd).oi = s.oi := rfl
@[simp] theorem takeCmd_ph (s : State) : (s.takeCmd).ph = s.ph := rfl
@[simp] theorem takeCmd_err (s : State) : (s.takeCmd).err = s.err := rfl
@[simp] theorem takeCmd_ecause (s : State) : (s.takeCmd).ecause = s.ecause := rfl
@[simp] theorem takeCmd_einfo (s : State) : (s.takeCmd).einfo = s.einfo := rfl
@[simp] theorem takeCmd_draws (s : State) : (s.takeCmd).draws = s.draws := rfl
@[simp] theorem takeCmd_ports (s : State) : (s.takeCmd).ports = { s.ports with cmd := none } := rfl
@[simp] theorem takeCmd_script (s : State) : (s.takeCmd).script = s.script := rfl
@[simp] theorem takeCmd_beats (s : State) : (s.takeCmd).beats = s.beats := rfl

/-! ### Taking the pop request off its port -/

@[simp] theorem takePop_h (s : State) : (s.takePop).h = s.h := rfl
@[simp] theorem takePop_w (s : State) : (s.takePop).w = s.w := rfl
@[simp] theorem takePop_m (s : State) : (s.takePop).m = s.m := rfl
@[simp] theorem takePop_i (s : State) : (s.takePop).i = s.i := rfl
@[simp] theorem takePop_fill (s : State) : (s.takePop).fill = s.fill := rfl
@[simp] theorem takePop_len (s : State) : (s.takePop).len = s.len := rfl
@[simp] theorem takePop_lk (s : State) : (s.takePop).lk = s.lk := rfl
@[simp] theorem takePop_fin (s : State) : (s.takePop).fin = s.fin := rfl
@[simp] theorem takePop_hexm (s : State) : (s.takePop).hexm = s.hexm := rfl
@[simp] theorem takePop_oi (s : State) : (s.takePop).oi = s.oi := rfl
@[simp] theorem takePop_ph (s : State) : (s.takePop).ph = s.ph := rfl
@[simp] theorem takePop_err (s : State) : (s.takePop).err = s.err := rfl
@[simp] theorem takePop_ecause (s : State) : (s.takePop).ecause = s.ecause := rfl
@[simp] theorem takePop_einfo (s : State) : (s.takePop).einfo = s.einfo := rfl
@[simp] theorem takePop_draws (s : State) : (s.takePop).draws = s.draws := rfl
@[simp] theorem takePop_ports (s : State) : (s.takePop).ports = { s.ports with pop := false } := rfl
@[simp] theorem takePop_script (s : State) : (s.takePop).script = s.script := rfl
@[simp] theorem takePop_beats (s : State) : (s.takePop).beats = s.beats := rfl

/-! ### Fault entry -/

@[simp] theorem protocolFault_h (cause : Cause) (cw : CmdWord) (s : State) : (protocolFault cause cw s).h = s.h := rfl
@[simp] theorem protocolFault_w (cause : Cause) (cw : CmdWord) (s : State) : (protocolFault cause cw s).w = s.w := rfl
@[simp] theorem protocolFault_m (cause : Cause) (cw : CmdWord) (s : State) : (protocolFault cause cw s).m = s.m := rfl
@[simp] theorem protocolFault_i (cause : Cause) (cw : CmdWord) (s : State) : (protocolFault cause cw s).i = s.i := rfl
@[simp] theorem protocolFault_fill (cause : Cause) (cw : CmdWord) (s : State) : (protocolFault cause cw s).fill = s.fill := rfl
@[simp] theorem protocolFault_len (cause : Cause) (cw : CmdWord) (s : State) : (protocolFault cause cw s).len = s.len := rfl
@[simp] theorem protocolFault_lk (cause : Cause) (cw : CmdWord) (s : State) : (protocolFault cause cw s).lk = s.lk := rfl
@[simp] theorem protocolFault_fin (cause : Cause) (cw : CmdWord) (s : State) : (protocolFault cause cw s).fin = s.fin := rfl
@[simp] theorem protocolFault_hexm (cause : Cause) (cw : CmdWord) (s : State) : (protocolFault cause cw s).hexm = s.hexm := rfl
@[simp] theorem protocolFault_oi (cause : Cause) (cw : CmdWord) (s : State) : (protocolFault cause cw s).oi = s.oi := rfl
@[simp] theorem protocolFault_ph (cause : Cause) (cw : CmdWord) (s : State) : (protocolFault cause cw s).ph = .fault := rfl
@[simp] theorem protocolFault_err (cause : Cause) (cw : CmdWord) (s : State) : (protocolFault cause cw s).err = true := rfl
@[simp] theorem protocolFault_ecause (cause : Cause) (cw : CmdWord) (s : State) : (protocolFault cause cw s).ecause = cause.code := rfl
@[simp] theorem protocolFault_einfo (cause : Cause) (cw : CmdWord) (s : State) : (protocolFault cause cw s).einfo = cw := rfl
@[simp] theorem protocolFault_draws (cause : Cause) (cw : CmdWord) (s : State) : (protocolFault cause cw s).draws = s.draws := rfl
@[simp] theorem protocolFault_ports (cause : Cause) (cw : CmdWord) (s : State) : (protocolFault cause cw s).ports = s.ports := rfl
@[simp] theorem protocolFault_script (cause : Cause) (cw : CmdWord) (s : State) : (protocolFault cause cw s).script = s.script := rfl
@[simp] theorem protocolFault_beats (cause : Cause) (cw : CmdWord) (s : State) : (protocolFault cause cw s).beats = s.beats := rfl

/-! ### BLKSTART -/

@[simp] theorem blkStart_h (s : State) : (blkStart s).h = s.h := rfl
@[simp] theorem blkStart_w (s : State) : (blkStart s).w = s.h := rfl
@[simp] theorem blkStart_m (s : State) : (blkStart s).m = s.m := rfl
@[simp] theorem blkStart_i (s : State) : (blkStart s).i = 0#7 := rfl
@[simp] theorem blkStart_fill (s : State) : (blkStart s).fill = s.fill := rfl
@[simp] theorem blkStart_len (s : State) : (blkStart s).len = s.len := rfl
@[simp] theorem blkStart_lk (s : State) : (blkStart s).lk = s.lk := rfl
@[simp] theorem blkStart_fin (s : State) : (blkStart s).fin = s.fin := rfl
@[simp] theorem blkStart_hexm (s : State) : (blkStart s).hexm = s.hexm := rfl
@[simp] theorem blkStart_oi (s : State) : (blkStart s).oi = s.oi := rfl
@[simp] theorem blkStart_ph (s : State) : (blkStart s).ph = s.ph := rfl
@[simp] theorem blkStart_err (s : State) : (blkStart s).err = s.err := rfl
@[simp] theorem blkStart_ecause (s : State) : (blkStart s).ecause = s.ecause := rfl
@[simp] theorem blkStart_einfo (s : State) : (blkStart s).einfo = s.einfo := rfl
@[simp] theorem blkStart_draws (s : State) : (blkStart s).draws = s.draws := rfl
@[simp] theorem blkStart_ports (s : State) : (blkStart s).ports = s.ports := rfl
@[simp] theorem blkStart_script (s : State) : (blkStart s).script = s.script := rfl
@[simp] theorem blkStart_beats (s : State) : (blkStart s).beats = s.beats := rfl

/-! ### The register writes of PutByte -/

@[simp] theorem storeByte_h (v : Byte) (s : State) : (storeByte v s).h = s.h := rfl
@[simp] theorem storeByte_w (v : Byte) (s : State) : (storeByte v s).w = s.w := rfl
@[simp] theorem storeByte_m (v : Byte) (s : State) : (storeByte v s).m = storeBlockByte s.m (s.fill.extractLsb' 0 6) v := rfl
@[simp] theorem storeByte_i (v : Byte) (s : State) : (storeByte v s).i = s.i := rfl
@[simp] theorem storeByte_fill (v : Byte) (s : State) : (storeByte v s).fill = s.fill + 1#7 := rfl
@[simp] theorem storeByte_len (v : Byte) (s : State) : (storeByte v s).len = s.len := rfl
@[simp] theorem storeByte_lk (v : Byte) (s : State) : (storeByte v s).lk = s.lk := rfl
@[simp] theorem storeByte_fin (v : Byte) (s : State) : (storeByte v s).fin = s.fin := rfl
@[simp] theorem storeByte_hexm (v : Byte) (s : State) : (storeByte v s).hexm = s.hexm := rfl
@[simp] theorem storeByte_oi (v : Byte) (s : State) : (storeByte v s).oi = s.oi := rfl
@[simp] theorem storeByte_ph (v : Byte) (s : State) : (storeByte v s).ph = s.ph := rfl
@[simp] theorem storeByte_err (v : Byte) (s : State) : (storeByte v s).err = s.err := rfl
@[simp] theorem storeByte_ecause (v : Byte) (s : State) : (storeByte v s).ecause = s.ecause := rfl
@[simp] theorem storeByte_einfo (v : Byte) (s : State) : (storeByte v s).einfo = s.einfo := rfl
@[simp] theorem storeByte_draws (v : Byte) (s : State) : (storeByte v s).draws = s.draws := rfl
@[simp] theorem storeByte_ports (v : Byte) (s : State) : (storeByte v s).ports = s.ports := rfl
@[simp] theorem storeByte_script (v : Byte) (s : State) : (storeByte v s).script = s.script := rfl
@[simp] theorem storeByte_beats (v : Byte) (s : State) : (storeByte v s).beats = s.beats := rfl

/-! ### RST; the registers it leaves unspecified have no lemma -/

@[simp] theorem resetCore_ph (s : State) : (resetCore s).ph = .idle := rfl
@[simp] theorem resetCore_err (s : State) : (resetCore s).err = false := rfl
@[simp] theorem resetCore_ecause (s : State) : (resetCore s).ecause = 0#2 := rfl
@[simp] theorem resetCore_einfo (s : State) : (resetCore s).einfo = 0#10 := rfl
@[simp] theorem resetCore_draws (s : State) : (resetCore s).draws = s.draws + 1 := rfl
@[simp] theorem resetCore_ports (s : State) : (resetCore s).ports = { s.ports with rst := false } := rfl
@[simp] theorem resetCore_script (s : State) : (resetCore s).script = s.script := rfl
@[simp] theorem resetCore_beats (s : State) : (resetCore s).beats = s.beats := rfl

/-- The code of an illegal word. -/
@[simp] theorem code_illegalCmd : Cause.illegalCmd.code = 1#2 := rfl

/-- The code of a word in the wrong phase. -/
@[simp] theorem code_badPhase : Cause.badPhase.code = 2#2 := rfl

/-- `nextState?` of a next state. -/
@[simp] theorem nextState?_next (s : State) : nextState? (.next s) = some s := rfl

end Sys2Proof.Machine
end

