-- ==== Sys2Proof/Laws/Ops.lean ====
section
/-! SUPPORT. What each shared operation can answer, once. -/

namespace Sys2Proof.Machine

/-- PutByte with room in the block: not the last byte. -/
theorem putByte_room {v : Byte} {np : Phase} {s : State} (h : s.fill.toNat < 63) :
    putByte v np s = .next { storeByte v s with ph := np } := by
  unfold putByte
  rw [if_neg (by omega), if_neg (by omega)]

/-- PutByte of byte 63: the compression starts. -/
theorem putByte_full {v : Byte} {np : Phase} {s : State} (h : s.fill.toNat = 63) :
    putByte v np s = .next { blkStart (storeByte v s) with ph := .comp } := by
  unfold putByte
  rw [if_neg (by omega), if_pos h]

/-- Everything PutByte can answer. -/
theorem putByte_next {v : Byte} {np : Phase} {s t : State} (h : putByte v np s = .next t) :
    (s.fill.toNat < 63 ∧ t = { storeByte v s with ph := np }) ∨
      (s.fill.toNat = 63 ∧ t = { blkStart (storeByte v s) with ph := .comp }) := by
  unfold putByte at h
  split at h
  · cases h
  · split at h
    · cases h; exact .inr ⟨‹_›, rfl⟩
    · cases h; exact .inl ⟨by omega, rfl⟩

/-- Everything the acceptance of a legal command can answer. -/
theorem acceptCommand_next {cw : CmdWord} {ph : Phase} {effect : State → Result} {s t : State}
    (h : acceptCommand cw ph effect s = .next t) :
    (cmdReady s = true ∧ s.ph = ph ∧ effect s.takeCmd = .next t) ∨
      (cmdReady s = true ∧ s.ph ≠ ph ∧ t = protocolFault .badPhase cw s.takeCmd) ∨
      (cmdReady s = false ∧ t = s) := by
  unfold acceptCommand at h
  split at h
  · split at h
    · exact .inl ⟨‹_›, ‹_›, h⟩
    · cases h; exact .inr (.inl ⟨‹_›, ‹_›, rfl⟩)
  · cases h; exact .inr (.inr ⟨by simp_all, rfl⟩)

/-- Everything a step operation can answer. -/
theorem runStep_next {idx : BitVec 6} {f : Quad → Word} {g : BitVec 6 → BitVec 4} {s t : State}
    (h : runStep idx f g s = .next t) :
    s.ph = .comp ∧ s.i = idx.setWidth 7 ∧
      t = { s with w := stepQuad (f s.w) idx (blockWord s.m (g idx)) s.w, i := s.i + 1 } := by
  unfold runStep at h
  split at h
  · cases h; exact ⟨‹_ ∧ _›.1, ‹_ ∧ _›.2, rfl⟩
  · cases h

/-- `cmd_ready` is 1 in the phases IDLE and ABSORB. -/
theorem cmdReady_iff (s : State) : cmdReady s = true ↔ s.ph = .idle ∨ s.ph = .absorb := by
  simp [cmdReady]

/-- `out_valid` is 1 in phase OUT. -/
theorem outValid_iff (s : State) : outValid s = true ↔ s.ph = .out := by
  simp [outValid]

/-- `busy` is 1 in the phases PADZ, PADL and COMP. -/
theorem busy_iff (s : State) : busy s = true ↔ s.ph = .padz ∨ s.ph = .padl ∨ s.ph = .comp := by
  simp [busy, or_assoc]

end Sys2Proof.Machine
end

