-- ==== Sys2Proof/Laws/Exec.lean ====
section
/-! SUPPORT. Inversion of every meaning, once: if it answers a next state, one of the cases listed holds. -/

namespace Sys2Proof.Machine

/-- The three ways a command word is met, with a storing effect opened (DATA, FINAL). -/
theorem acceptStore_next {cw : CmdWord} {v : Byte} {np : Phase} {pre : State → State} {s t : State}
    (h : acceptCommand cw .absorb (fun s => putByte v np (pre s)) s = .next t) :
    (s.ph = .absorb ∧ (pre s.takeCmd).fill.toNat < 63 ∧ t = { storeByte v (pre s.takeCmd) with ph := np }) ∨
    (s.ph = .absorb ∧ (pre s.takeCmd).fill.toNat = 63 ∧
      t = { blkStart (storeByte v (pre s.takeCmd)) with ph := .comp }) ∨
    (s.ph = .idle ∧ t = protocolFault .badPhase cw s.takeCmd) ∨
    (cmdReady s = false ∧ t = s) := by
  rcases acceptCommand_next h with ⟨_, hp, h⟩ | ⟨hr, hp, rfl⟩ | ⟨hr, rfl⟩
  · rcases putByte_next h with ⟨hf, rfl⟩ | ⟨hf, rfl⟩
    · exact .inl ⟨hp, hf, rfl⟩
    · exact .inr (.inl ⟨hp, hf, rfl⟩)
  · rw [cmdReady_iff] at hr
    exact .inr (.inr (.inl ⟨hr.resolve_right hp, rfl⟩))
  · exact .inr (.inr (.inr ⟨hr, rfl⟩))

/-- INIT. -/
theorem exec_init_next {hex : Bool} {s t : State} (h : exec (.init hex) s = .next t) :
    (s.ph = .idle ∧ t =
      { s.takeCmd with
        h := iv, len := 0#64, fill := 0#7, lk := 0#4, fin := false, hexm := hex, oi := 0#6, ph := .absorb }) ∨
    (s.ph = .absorb ∧ t = protocolFault .badPhase (initWord hex) s.takeCmd) ∨
    (cmdReady s = false ∧ t = s) := by
  simp only [exec, execInit] at h
  rcases acceptCommand_next h with ⟨_, hp, h⟩ | ⟨hr, hp, rfl⟩ | ⟨hr, rfl⟩
  · cases h; exact .inl ⟨hp, rfl⟩
  · rw [cmdReady_iff] at hr
    exact .inr (.inl ⟨hr.resolve_left hp, rfl⟩)
  · exact .inr (.inr ⟨hr, rfl⟩)

/-- DATA. -/
theorem exec_data_next {d : Byte} {s t : State} (h : exec (.data d) s = .next t) :
    (s.ph = .absorb ∧ s.fill.toNat < 63 ∧
      t = { storeByte d { s.takeCmd with len := add64 s.len 8#64 } with ph := .absorb }) ∨
    (s.ph = .absorb ∧ s.fill.toNat = 63 ∧
      t = { blkStart (storeByte d { s.takeCmd with len := add64 s.len 8#64 }) with ph := .comp }) ∨
    (s.ph = .idle ∧ t = protocolFault .badPhase (dataWord d) s.takeCmd) ∨
    (cmdReady s = false ∧ t = s) := by
  simp only [exec, execData] at h
  exact acceptStore_next h

/-- FINAL. -/
theorem exec_final_next {s t : State} (h : exec .final s = .next t) :
    (s.ph = .absorb ∧ s.fill.toNat < 63 ∧
      t = { storeByte markerByte { s.takeCmd with fin := true } with ph := .padz }) ∨
    (s.ph = .absorb ∧ s.fill.toNat = 63 ∧
      t = { blkStart (storeByte markerByte { s.takeCmd with fin := true }) with ph := .comp }) ∨
    (s.ph = .idle ∧ t = protocolFault .badPhase finalWord s.takeCmd) ∨
    (cmdReady s = false ∧ t = s) := by
  simp only [exec, execFinal] at h
  exact acceptStore_next h

/-- PADZ. -/
theorem exec_padz_next {s t : State} (h : exec .padz s = .next t) :
    s.ph = .padz ∧ s.fill ≠ 56#7 ∧
      ((s.fill.toNat < 63 ∧ t = { storeByte fillByte s with ph := .padz }) ∨
        (s.fill.toNat = 63 ∧ t = { blkStart (storeByte fillByte s) with ph := .comp })) := by
  simp only [exec, execPadz] at h
  split at h
  · next hp => exact ⟨hp.1, hp.2, putByte_next h⟩
  · cases h

/-- PADZEND. -/
theorem exec_padzend_next {s t : State} (h : exec .padzend s = .next t) :
    s.ph = .padz ∧ s.fill = 56#7 ∧ t = { s with ph := .padl } := by
  simp only [exec, execPadzend] at h
  split at h
  · next hp => cases h; exact ⟨hp.1, hp.2, rfl⟩
  · cases h

/-- PADL. -/
theorem exec_padl_next {s t : State} (h : exec .padl s = .next t) :
    s.ph = .padl ∧ s.lk.toNat < 8 ∧
      ((s.fill.toNat < 63 ∧ t =
          { storeByte (lenByte s.len s.lk.toNat) { s with lk := s.lk + 1#4 } with ph := .padl }) ∨
        (s.fill.toNat = 63 ∧ t =
          { blkStart (storeByte (lenByte s.len s.lk.toNat) { s with lk := s.lk + 1#4 }) with ph := .comp })) := by
  simp only [exec, execPadl] at h
  split at h
  · next hp =>
    split at h
    · cases h
    · exact ⟨hp, by omega, putByte_next h⟩
  · cases h

/-- The four step operations: the common part, for the round index they were selected by. -/
theorem exec_step_next {i : Instr} {idx : BitVec 6} {s t : State} (hi : encode i = .step idx)
    (h : exec i s = .next t) :
    s.ph = .comp ∧ s.i = idx.setWidth 7 ∧ ∃ w : Quad, t = { s with w := w, i := s.i + 1#7 } := by
  cases i <;> simp only [encode, Encoded.step.injEq, reduceCtorEq] at hi <;> subst hi <;>
    exact ⟨(runStep_next h).1, (runStep_next h).2.1, _, (runStep_next h).2.2⟩

/-- FEED. -/
theorem exec_feed_next {s t : State} (h : exec .feed s = .next t) :
    s.ph = .comp ∧ s.i = 64#7 ∧
      ((s.lk = 8#4 ∧ t = { s with h := addQuad s.h s.w, fill := 0#7, oi := 0#6, ph := .out }) ∨
        (s.lk ≠ 8#4 ∧ s.fin = true ∧ t = { s with h := addQuad s.h s.w, fill := 0#7, ph := .padz }) ∨
        (s.lk ≠ 8#4 ∧ s.fin = false ∧ t = { s with h := addQuad s.h s.w, fill := 0#7, ph := .absorb })) := by
  simp only [exec, execFeed] at h
  split at h
  · next hp =>
    refine ⟨hp.1, hp.2, ?_⟩
    split at h
    · cases h; exact .inl ⟨‹_›, rfl⟩
    · cases hf : s.fin <;> rw [hf] at h <;> cases h
      · exact .inr (.inr ⟨‹_›, rfl, rfl⟩)
      · exact .inr (.inl ⟨‹_›, rfl, rfl⟩)
  · cases h

/-- POP. -/
theorem exec_pop_next {s t : State} (h : exec .pop s = .next t) :
    (s.ph = .out ∧ s.oi.toNat ≤ (lastBeat s.hexm).toNat ∧ t =
      { s.takePop with
        beats := s.beats ++ [makeBeat (s.oi == lastBeat s.hexm) (beatData s.h s.hexm s.oi)]
        oi := s.oi + 1#6
        ph := if s.oi == lastBeat s.hexm then .idle else .out }) ∨
    (outValid s = false ∧ t = s) := by
  simp only [exec, execPop] at h
  split at h
  · next ho =>
    split at h
    · cases h
    · cases h; exact .inl ⟨(outValid_iff s).mp ho, by omega, rfl⟩
  · cases h; exact .inr ⟨by simp_all, rfl⟩

end Sys2Proof.Machine
end

