-- ==== Sys2Proof/Laws/Host.lean ====
section
/-! SUPPORT. What a host move can change: the ports and the script, nothing of CORE. -/

namespace Sys2Proof.Machine

/-- A host move rewrites the ports and the script at most. -/
theorem hostMove_eq (s : State) :
    hostMove s = { s with ports := (hostMove s).ports, script := (hostMove s).script } := by
  unfold hostMove
  split
  · rfl
  · split <;> rfl

/-- With an empty script the host does nothing. -/
theorem hostMove_of_script_nil {s : State} (h : s.script = []) : hostMove s = s := by
  unfold hostMove; rw [h]

/-- A blocked act is not made. -/
theorem hostMove_of_blocked {s : State} {act : HostAct} {rest : List HostAct} (h : s.script = act :: rest)
    (hb : act.blocked s = true) : hostMove s = s := by
  unfold hostMove; rw [h]; simp [hb]

/-- An act that is not blocked is made. -/
theorem hostMove_of_free {s : State} {act : HostAct} {rest : List HostAct} (h : s.script = act :: rest)
    (hb : act.blocked s = false) : hostMove s = { s with ports := act.apply s.ports, script := rest } := by
  unfold hostMove; rw [h]; simp [hb]

@[simp] theorem hostMove_h (s : State) : (hostMove s).h = s.h := by rw [hostMove_eq]
@[simp] theorem hostMove_w (s : State) : (hostMove s).w = s.w := by rw [hostMove_eq]
@[simp] theorem hostMove_m (s : State) : (hostMove s).m = s.m := by rw [hostMove_eq]
@[simp] theorem hostMove_i (s : State) : (hostMove s).i = s.i := by rw [hostMove_eq]
@[simp] theorem hostMove_fill (s : State) : (hostMove s).fill = s.fill := by rw [hostMove_eq]
@[simp] theorem hostMove_len (s : State) : (hostMove s).len = s.len := by rw [hostMove_eq]
@[simp] theorem hostMove_lk (s : State) : (hostMove s).lk = s.lk := by rw [hostMove_eq]
@[simp] theorem hostMove_fin (s : State) : (hostMove s).fin = s.fin := by rw [hostMove_eq]
@[simp] theorem hostMove_hexm (s : State) : (hostMove s).hexm = s.hexm := by rw [hostMove_eq]
@[simp] theorem hostMove_oi (s : State) : (hostMove s).oi = s.oi := by rw [hostMove_eq]
@[simp] theorem hostMove_ph (s : State) : (hostMove s).ph = s.ph := by rw [hostMove_eq]
@[simp] theorem hostMove_err (s : State) : (hostMove s).err = s.err := by rw [hostMove_eq]
@[simp] theorem hostMove_ecause (s : State) : (hostMove s).ecause = s.ecause := by rw [hostMove_eq]
@[simp] theorem hostMove_einfo (s : State) : (hostMove s).einfo = s.einfo := by rw [hostMove_eq]
@[simp] theorem hostMove_draws (s : State) : (hostMove s).draws = s.draws := by rw [hostMove_eq]
@[simp] theorem hostMove_beats (s : State) : (hostMove s).beats = s.beats := by rw [hostMove_eq]

end Sys2Proof.Machine
end

