-- ==== Sys2Proof/Laws/Index.lean ====
section
/-! SUPPORT. The round index that the operand of a step operation stands for. -/

namespace Sys2Proof.Machine

/-- Quadrant 0: i = r. -/
@[simp] theorem toNat_quadrant0 (r : BitVec 4) : (0x0#2 ++ r).toNat = r.toNat := by revert r; decide

/-- Quadrant 1: i = 16 + r. -/
@[simp] theorem toNat_quadrant1 (r : BitVec 4) : (0x1#2 ++ r).toNat = 16 + r.toNat := by revert r; decide

/-- Quadrant 2: i = 32 + r. -/
@[simp] theorem toNat_quadrant2 (r : BitVec 4) : (0x2#2 ++ r).toNat = 32 + r.toNat := by revert r; decide

/-- Quadrant 3: i = 48 + r. -/
@[simp] theorem toNat_quadrant3 (r : BitVec 4) : (0x3#2 ++ r).toNat = 48 + r.toNat := by revert r; decide

end Sys2Proof.Machine
end

