-- ==== Sys2Proof/Laws/PerInstr.lean ====
section
/-! SUPPORT. Per operation: the encoder's word lies in the operation's own row of spec/opcode_table.json. -/

namespace Sys2Proof.Laws.EncodeRow

/-- The encoded word masked by the row's mask is the row's match value. -/
def Statement (i : Instr) : Prop := (encode i).bits &&& (tableRow i).1 = (tableRow i).2

theorem init (hex : Bool) : Statement (.init hex) := by revert hex; unfold Statement; decide
theorem data (d : Byte) : Statement (.data d) := by revert d; unfold Statement; decide
theorem final : Statement .final := by unfold Statement; decide
theorem padz : Statement .padz := by unfold Statement; decide
theorem padzend : Statement .padzend := by unfold Statement; decide
theorem padl : Statement .padl := by unfold Statement; decide
theorem blkstart : Statement .blkstart := by unfold Statement; decide
theorem stepq0 (r : BitVec 4) : Statement (.stepq0 r) := by revert r; unfold Statement; decide
theorem stepq1 (r : BitVec 4) : Statement (.stepq1 r) := by revert r; unfold Statement; decide
theorem stepq2 (r : BitVec 4) : Statement (.stepq2 r) := by revert r; unfold Statement; decide
theorem stepq3 (r : BitVec 4) : Statement (.stepq3 r) := by revert r; unfold Statement; decide
theorem feed : Statement .feed := by unfold Statement; decide
theorem pop : Statement .pop := by unfold Statement; decide
theorem rst : Statement .rst := by unfold Statement; decide

end Sys2Proof.Laws.EncodeRow
end

