-- ==== Sys2Proof/Laws/Select.lean ====
section
/-! SUPPORT. What the request vector and the selector decode to, over their truth values. -/

namespace Sys2Proof.Machine

/-- Reset wins over a simultaneous pop request. -/
@[simp] theorem decodeReq_rst (pop : Bool) : decodeReq (reqBits true pop) = .ok .rst := by
  cases pop <;> decide

/-- A pop request alone. -/
@[simp] theorem decodeReq_pop : decodeReq (reqBits false true) = .ok .pop := by decide

/-- No request. -/
@[simp] theorem decodeReq_none : decodeReq (reqBits false false) = .rejected .noRequest := by decide

/-- Phase PADZ with fill not 56. -/
@[simp] theorem decodeSel_padz (i64 f63 : Bool) :
    decodeSel (selBits true false false false i64 f63) = .ok .padz := by
  revert i64 f63; decide

/-- Phase PADZ with fill = 56. -/
@[simp] theorem decodeSel_padzend (i64 : Bool) :
    decodeSel (selBits true false false true i64 false) = .ok .padzend := by
  revert i64; decide

/-- Phase PADL. -/
theorem decodeSel_padl {f56 f63 : Bool} (i64 : Bool) (h : (f56 && f63) = false) :
    decodeSel (selBits false true false f56 i64 f63) = .ok .padl := by
  revert f56 f63 i64; decide

/-- Phase COMP with i = 64. -/
theorem decodeSel_feed {f56 f63 : Bool} (h : (f56 && f63) = false) :
    decodeSel (selBits false false true f56 true f63) = .ok .feed := by
  revert f56 f63; decide

/-- Phase COMP with i not 64. -/
theorem decodeSel_step {f56 f63 : Bool} (h : (f56 && f63) = false) :
    decodeSel (selBits false false true f56 false f63) = .rejected .readStepIndex := by
  revert f56 f63; decide

/-- The other phases. -/
theorem decodeSel_none {f56 f63 : Bool} (i64 : Bool) (h : (f56 && f63) = false) :
    decodeSel (selBits false false false f56 i64 f63) = .rejected .noSelection := by
  revert f56 f63 i64; decide

/-- fill has one value, so sel[2] and sel[0] are never 1 together. -/
theorem fill_bits_exclusive (s : State) : (decide (s.fill = 56#7) && decide (s.fill = 63#7)) = false := by
  cases h : decide (s.fill = 56#7)
  · rfl
  · rw [of_decide_eq_true h]; rfl

end Sys2Proof.Machine
end

