-- ==== Sys2Proof/Laws/Step.lean ====
section
/-! SUPPORT. Inversion of the sequencer's choice and of CORE's part of a step. -/

namespace Sys2Proof.Machine

/-- No decoder gives BLKSTART: every decoded operation can be selected on its own. -/
theorem decodeCmd_wellFormed {cw : CmdWord} {i : Instr} (h : decodeCmd cw = .ok i) : i.wellFormed = true := by
  unfold decodeCmd at h
  dsimp only at h
  split at h
  · split at h <;> cases h; rfl
  · split at h
    · cases h; rfl
    · split at h
      · split at h <;> cases h; rfl
      · cases h

/-- A request vector decodes to RST or POP. -/
theorem decodeReq_ok {r : BitVec 2} {i : Instr} (h : decodeReq r = .ok i) : i = .rst ∨ i = .pop := by
  unfold decodeReq at h
  split at h
  · cases h; exact .inl rfl
  · split at h <;> cases h; exact .inr rfl

/-- A selector decodes to an internal operation other than BLKSTART. -/
theorem decodeSel_ok {x : BitVec 6} {i : Instr} (h : decodeSel x = .ok i) :
    i = .padz ∨ i = .padzend ∨ i = .padl ∨ i = .feed := by
  unfold decodeSel at h
  repeat' split at h
  all_goals cases h
  all_goals simp

/-- A round index decodes to a step operation. -/
theorem decodeStep_cases (x : BitVec 6) :
    ∃ r, decodeStep x = .stepq0 r ∨ decodeStep x = .stepq1 r ∨ decodeStep x = .stepq2 r ∨ decodeStep x = .stepq3 r := by
  unfold decodeStep
  dsimp only
  refine ⟨x.extractLsb' 0 4, ?_⟩
  repeat' split
  all_goals simp

/-- An internal selection is an internal operation that can be selected on its own. -/
theorem selectInternal_wellFormed {s : State} {i : Instr} (h : selectInternal s = some i) : i.wellFormed = true := by
  unfold selectInternal at h
  split at h
  · next j hj =>
    cases h
    rcases decodeSel_ok hj with rfl | rfl | rfl | rfl <;> rfl
  · split at h
    · cases h
      obtain ⟨r, hr⟩ := decodeStep_cases (s.i.extractLsb' 0 6)
      rcases hr with hr | hr | hr | hr <;> rw [hr] <;> rfl
    · cases h
  · cases h

/-- Where the sequencer performs an operation, it can be selected on its own. -/
theorem select_perform {s : State} {i : Instr} (h : select s = .perform i) : i.wellFormed = true := by
  unfold select at h
  split at h
  · cases h; rfl
  · split at h
    · next j hj => cases h; exact selectInternal_wellFormed hj
    · split at h
      · split at h
        · split at h
          · next j hj => cases h; exact decodeCmd_wellFormed hj
          · cases h
        · cases h
      · split at h
        · split at h
          · next j hj =>
            cases h
            rcases decodeReq_ok hj with rfl | rfl <;> rfl
          · cases h
        · cases h

/-- Where the sequencer accepts an illegal word: no reset, a ready CORE, and a word that does not decode. -/
theorem select_illegal {s : State} {cw : CmdWord} (h : select s = .illegal cw) :
    s.ports.rst = false ∧ cmdReady s = true ∧ s.ports.cmd = some cw ∧ ∃ why, decodeCmd cw = .rejected why := by
  unfold select at h
  split at h
  · cases h
  · next hr =>
    refine ⟨?_, ?_⟩
    · cases hrst : s.ports.rst
      · rfl
      · exact absurd (by rw [reqVector, hrst]; simp) hr
    · split at h
      · cases h
      · split at h
        · next hc =>
          split at h
          · next w hw =>
            split at h
            · cases h
            · next why hwhy => cases h; exact ⟨hc, hw, why, hwhy⟩
          · cases h
        · split at h
          · split at h <;> cases h
          · cases h

/-- CORE's part of a step: a selected operation, the acceptance of an illegal word, or a wait. -/
theorem coreMove_next {s t : State} (h : coreMove s = .next t) :
    (∃ i, select s = .perform i ∧ i.wellFormed = true ∧ exec i s = .next t) ∨
    (∃ cw, select s = .illegal cw ∧ t = protocolFault .illegalCmd cw s.takeCmd) ∨
    (select s = .wait ∧ t = s) := by
  unfold coreMove at h
  split at h
  · next i hi => exact .inl ⟨i, hi, select_perform hi, h⟩
  · next cw hcw =>
    cases h
    exact .inr (.inl ⟨cw, hcw, by simp [acceptIllegal, (select_illegal hcw).2.1]⟩)
  · next hw => cases h; exact .inr (.inr ⟨hw, rfl⟩)

/-- CORE waits exactly where no reset is applied, no internal operation is enabled, and no request at a port can be
taken. -/
theorem select_eq_wait_iff {s : State} :
    select s = .wait ↔ s.ports.rst = false ∧ selectInternal s = none ∧
      (cmdReady s = true → s.ports.cmd = none) ∧ (outValid s = true → s.ports.pop = false) := by
  have hexcl : cmdReady s = true → outValid s = false := by cases hp : s.ph <;> simp [cmdReady, outValid, hp]
  unfold select reqVector
  cases hr : s.ports.rst
  · cases hsel : selectInternal s with
    | some i => cases hp : s.ports.pop <;> simp
    | none =>
      cases hc : cmdReady s
      · cases ho : outValid s <;> cases hp : s.ports.pop <;> simp
      · cases hcmd : s.ports.cmd with
        | none => cases hp : s.ports.pop <;> simp [hexcl hc]
        | some cw => cases hd : decodeCmd cw <;> cases hp : s.ports.pop <;> simp [hd]
  · simp

end Sys2Proof.Machine
end

