-- ==== Sys2Proof/Laws/Stored.lean ====
section
/-! SUPPORT. What a PutByte with room answers, in terms of the byte view of the block buffer. -/

namespace Sys2Proof.Machine

/-- With fill below 64 the 6-bit offset of the store is fill. -/
theorem fill_offset {f : BitVec 7} (h : f.toNat < 64) : (f.extractLsb' 0 6).toNat = f.toNat := by
  simp only [BitVec.extractLsb'_toNat, Nat.shiftRight_zero]
  exact Nat.mod_eq_of_lt h

/-- The byte view after the store of a PutByte. -/
theorem blockByte_storeByte {v : Byte} {s : State} (h : s.fill.toNat < 64) (p : BitVec 6) :
    blockByte (storeByte v s).m p = if p.toNat = s.fill.toNat then v else blockByte s.m p := by
  rw [storeByte_m]
  split
  · next e =>
    obtain rfl : p = s.fill.extractLsb' 0 6 := BitVec.eq_of_toNat_eq (by rw [e, fill_offset h])
    simp
  · next e => exact blockByte_storeBlockByte_other _ _ fun hp => e (by rw [hp, fill_offset h])

/-- PutByte with fill below 64 answers a next state in which exactly that byte is stored. -/
theorem putByte_stored {v : Byte} {np : Phase} {s : State} (h : s.fill.toNat < 64) :
    ∃ t, putByte v np s = .next t ∧ StoredByte v np s t := by
  by_cases hf : s.fill.toNat = 63
  · exact ⟨_, putByte_full hf, blockByte_storeByte h, by simp [hf, blkStart, storeByte]⟩
  · exact ⟨_, putByte_room (by omega), blockByte_storeByte h, by simp [hf, storeByte]⟩

end Sys2Proof.Machine
end

