-- ==== Sys2Proof/Tests/Slice0.lean ====
section
/-! SUPPORT. Tests of one operation each, and a witness for every statement that has hypotheses. Expected values are
the spec's own: its examples and the vectors V11 to V22 of spec/95_test_vectors.md, or a hand calculation from the
rule a test names. -/

namespace Sys2Proof.Tests

open Sys2Proof Sys2Proof.Machine

/-! ### Small states -/

/-- Phase ABSORB with `fill` bytes stored. -/
def absorbing (fill : BitVec 7) (len : BitVec 64) : State := { State.reset with ph := .absorb, h := iv, fill, len }

/-- Phase PADZ with `fill` bytes stored. -/
def zeroFilling (fill : BitVec 7) : State := { State.reset with ph := .padz, h := iv, fill, fin := true }

/-- Phase PADL before length byte `lk`, of a message of `len` bits. -/
def lengthening (lk : BitVec 4) (len : BitVec 64) : State :=
  { State.reset with ph := .padl, h := iv, lk, fill := 56#7 + lk.setWidth 7, len, fin := true }

/-- Phase COMP before step `i`, all words of the block `mg`. -/
def compressing (i : BitVec 7) (w : Quad) (mg : Word) : State :=
  { State.reset with ph := .comp, h := iv, w, i, fill := 64, m := Vector.replicate 16 mg }

/-- Phase OUT before beat `oi`, with the digest of the empty message. -/
def serving (hexm : Bool) (oi : BitVec 6) : State :=
  { State.reset with
    ph := .out, h := ⟨0xd98c1dd4#32, 0x04b2008f#32, 0x980980e9#32, 0x7e42f8ec#32⟩, i := 64, lk := 8, fin := true,
    hexm, oi, ports := ⟨none, true, false⟩ }

/-- Phase FAULT after a DATA in IDLE (V21). -/
def faulted : State := { State.reset with ph := .fault, err := true, ecause := 2, einfo := 0x100#10 }

/-- A host that offers one command word. -/
def offering (s : State) (cw : CmdWord) : State := { s with ports := ⟨some cw, false, false⟩ }

/-! ### Well-formedness and decoding -/

/-- BLKSTART is the one term that cannot be selected on its own. -/
theorem test_wellFormed_refuses_blkstart : Instr.blkstart.wellFormed = false := by decide

/-- V12: words of INIT. -/
theorem test_decode_init :
    decodeCmd 0b0000000000#10 = .ok (.init false) ∧ decodeCmd 0b0000000001#10 = .ok (.init true) ∧
    decodeCmd 0b0000000011#10 = .rejected .reservedInitBits ∧ decodeCmd 0x0FF#10 = .rejected .reservedInitBits := by
  decide

/-- V12: words of DATA. -/
theorem test_decode_data :
    decodeCmd 0b0100000000#10 = .ok (.data 0x00#8) ∧ decodeCmd 0b0110000000#10 = .ok (.data 0x80#8) ∧
    decodeCmd 0x1FF#10 = .ok (.data 0xFF#8) := by decide

/-- V12: words of FINAL and of `op` = 3. -/
theorem test_decode_final :
    decodeCmd 0b1000000000#10 = .ok .final ∧ decodeCmd 0x2FF#10 = .rejected .reservedFinalBits ∧
    decodeCmd 0x300#10 = .rejected .reservedOp ∧ decodeCmd 0x3FF#10 = .rejected .reservedOp := by decide

/-- R105: the rows of format SEQ. BLKSTART's predicate alone selects nothing; with PADZ it selects PADZ. -/
theorem test_decode_sel :
    decodeSel 0b100000#6 = .ok .padz ∧ decodeSel 0b100100#6 = .ok .padzend ∧ decodeSel 0b010000#6 = .ok .padl ∧
    decodeSel 0b001010#6 = .ok .feed ∧ decodeSel 0b001000#6 = .rejected .readStepIndex ∧
    decodeSel 0b000001#6 = .rejected .noSelection ∧ decodeSel 0b100001#6 = .ok .padz ∧
    decodeSel 0b110000#6 = .rejected .impossibleSelector := by decide

/-- R105: the rows of format EVENT; reset wins. -/
theorem test_decode_req :
    decodeReq 0b10#2 = .ok .rst ∧ decodeReq 0b11#2 = .ok .rst ∧ decodeReq 0b01#2 = .ok .pop ∧
    decodeReq 0b00#2 = .rejected .noRequest := by decide

/-- R100: the rows of format STEP, `q` in bits 5:4 and `r` in bits 3:0. -/
theorem test_decode_step :
    decodeStep 0b000000#6 = .stepq0 0b0000#4 ∧ decodeStep 0b011010#6 = .stepq1 0b1010#4 ∧
    decodeStep 0b100001#6 = .stepq2 0b0001#4 ∧ decodeStep 0b111111#6 = .stepq3 0b1111#4 := by decide

/-- The words of the table's rows: each of the three command words, and the one-byte words that one format gives. -/
theorem test_decodeTableWord :
    decodeTableWord 16 0x000 = some (.init false) ∧ decodeTableWord 16 0x100 = some (.data 0) ∧
    decodeTableWord 16 0x200 = some .final ∧ decodeTableWord 8 0x20 = some .padz ∧
    decodeTableWord 8 0x24 = some .padzend ∧ decodeTableWord 8 0x10 = some .padl ∧
    decodeTableWord 8 0x0A = some .feed ∧ decodeTableWord 8 0x00 = some (.stepq0 0) ∧
    decodeTableWord 8 0x30 = some (.stepq3 0) ∧ decodeTableWord 8 0x01 = some .pop ∧
    decodeTableWord 8 0x02 = some .rst ∧ decodeTableWord 16 0x400 = none := by decide

/-- The placed operation is what the next step performs, from reset: DATA, PADL and FEED. -/
theorem test_withFetchWord :
    nextState? (step (State.reset.withFetchWord 16 0x131)) =
      nextState? (exec (.data 0x31) (State.reset.withFetchWord 16 0x131)) ∧
    nextState? (step (State.reset.withFetchWord 8 0x10)) =
      nextState? (exec .padl (State.reset.withFetchWord 8 0x10)) ∧
    nextState? (step (State.reset.withFetchWord 8 0x0A)) =
      nextState? (exec .feed (State.reset.withFetchWord 8 0x0A)) := by decide

/-! ### Arithmetic, tables and renderings -/

/-- V11. -/
theorem test_word_arithmetic :
    add32 0xffffffff#32 0x00000001#32 = 0x00000000#32 ∧ not32 0x00000000#32 = 0xffffffff#32 ∧
    rotl32 0x80000000#32 1 = 0x00000001#32 ∧ rotl32 0x12345678#32 4 = 0x23456781#32 ∧
    rotl32 0x12345678#32 23 = 0x3c091a2b#32 ∧ rotl32 0x80000001#32 16 = 0x00018000#32 ∧
    add64 0xfffffffffffffff8#64 8#64 = 0#64 := by decide

/-- R171: rows 17, 34 and 63 of the schedule. -/
theorem test_schedule_rows :
    (indexQ1 17, amountS 17, constK 17) = (6#4, 9#5, 0xc040b340#32) ∧
    (indexQ2 34, amountS 34, constK 34) = (11#4, 16#5, 0x6d9d6122#32) ∧
    (indexQ3 63, amountS 63, constK 63) = (9#4, 21#5, 0xeb86d391#32) := by decide

/-- V1: the compression of the one block of the empty message; it uses all of K and S. -/
theorem test_compress_empty :
    compress iv (Vector.ofFn fun j => if j.val = 0 then 0x80#32 else 0#32) =
      ⟨0xd98c1dd4#32, 0x04b2008f#32, 0x980980e9#32, 0x7e42f8ec#32⟩ := by decide +kernel

/-- V19: the digest bytes of the initial constants, first and last characters, and the digits' codes. -/
theorem test_serialize :
    (serialize iv).take 5 = [0x01#8, 0x23#8, 0x45#8, 0x67#8, 0x89#8] ∧ (serialize iv).getLast? = some 0x10#8 ∧
    (hexstr (serialize iv)).take 4 = [0x30#8, 0x31#8, 0x32#8, 0x33#8] ∧
    hexdigit 9 = 0x39#8 ∧ hexdigit 10 = 0x61#8 ∧ hexdigit 15 = 0x66#8 := by decide

/-- V14: the zero counts and block counts at the padding boundary. -/
theorem test_padding_counts :
    (zeroCount 54, blockCount 54) = (1, 1) ∧ (zeroCount 55, blockCount 55) = (0, 1) ∧
    (zeroCount 56, blockCount 56) = (63, 2) ∧ (zeroCount 63, blockCount 63) = (56, 2) ∧
    (zeroCount 119, blockCount 119) = (0, 2) ∧ (zeroCount 120, blockCount 120) = (63, 3) := by decide

/-- V16: the length field at the wrap. -/
theorem test_length_wrap :
    (lengthField (2 ^ 61 - 1)).take 2 = [0xf8#8, 0xff#8] ∧ lengthField (2 ^ 61) = List.replicate 8 0x00#8 ∧
    (lengthField (2 ^ 61 + 56)).take 2 = [0xc0#8, 0x01#8] := by decide

/-! ### One operation each -/

/-- V13: `init.hex` in IDLE. -/
theorem test_init :
    (nextState? (exec (.init true) State.reset)).map (fun t => (t.ph, t.h.a, t.h.d, t.hexm, t.len)) =
      some (.absorb, 0x67452301#32, 0x10325476#32, true, 0#64) := by decide

/-- V21: INIT in ABSORB. -/
theorem test_init_in_absorb :
    (nextState? (exec (.init true) (absorbing 0 0))).map (fun t => (t.ph, t.err, t.ecause, t.einfo)) =
      some (.fault, true, 2#2, 0x001#10) := by decide

/-- V13: DATA 0xcd at fill = 7 writes bits 31:24 of M[1]. -/
theorem test_data :
    (nextState? (exec (.data 0xcd#8) { absorbing 7 0x38#64 with m := Vector.replicate 16 0x11223344#32 })).map
      (fun t => (t.ph, t.fill, t.len, t.m[1], t.m[0])) =
      some (.absorb, 8#7, 0x40#64, 0xcd223344#32, 0x11223344#32) := by decide

/-- V13: DATA at fill = 63 completes the block. -/
theorem test_data_full :
    (nextState? (exec (.data 0#8) (absorbing 63 0x1F8#64))).map (fun t => (t.ph, t.fill, t.len, t.w, t.i)) =
      some (.comp, 64#7, 0x200#64, iv, 0#7) := by decide

/-- V13: FINAL at fill = 55. -/
theorem test_final :
    (nextState? (exec .final (absorbing 55 0x1b8#64))).map (fun t => (t.ph, t.fill, t.fin, t.len, blockByte t.m 55)) =
      some (.padz, 56#7, true, 0x1b8#64, 0x80#8) := by decide

/-- V21: FINAL in IDLE. -/
theorem test_final_in_idle :
    (nextState? (exec .final State.reset)).map (fun t => (t.ph, t.ecause, t.einfo, t.fill)) =
      some (.fault, 2#2, 0x200#10, 0#7) := by decide

/-- R145: PADZ after the message "1" and its marker. -/
theorem test_padz :
    (nextState? (exec .padz { zeroFilling 2 with m := Vector.replicate 16 0xaabb8031#32 })).map
      (fun t => (t.ph, t.fill, t.m[0])) = some (.padz, 3#7, 0xaa008031#32) := by decide

/-- R145: a zero stored at offset 63 starts a compression. -/
theorem test_padz_full :
    (nextState? (exec .padz (zeroFilling 63))).map (fun t => (t.ph, t.fill, t.w)) = some (.comp, 64#7, iv) := by decide

/-- R146. -/
theorem test_padzend : nextState? (exec .padzend (zeroFilling 56)) = some { zeroFilling 56 with ph := .padl } := by
  decide

/-- R63: the first length byte of a 43-byte message, LEN = 0x158. -/
theorem test_padl :
    (nextState? (exec .padl (lengthening 0 0x158#64))).map (fun t => (t.ph, t.lk, t.fill, blockByte t.m 56)) =
      some (.padl, 1#4, 57#7, 0x58#8) := by decide

/-- R147: the eighth PADL completes the last block; V16, its byte is the most significant of LEN. -/
theorem test_padl_last :
    (nextState? (exec .padl (lengthening 7 0xfffffffffffffff8#64))).map (fun t => (t.ph, t.lk, t.i, t.m[15])) =
      some (.comp, 8#4, 0#7, 0xff000000#32) := by decide

/-- R161. -/
theorem test_blkstart :
    (nextState? (exec .blkstart (absorbing 64 0))).map (fun t => (t.w, t.h, t.i)) = some (iv, iv, 0#7) := by decide

/-- R163: step 0 of the empty message. -/
theorem test_stepq0 :
    (nextState? (exec (.stepq0 0) (compressing 0 iv 0x80#32))).map (fun t => (t.w, t.i)) =
      some (⟨0x10325476#32, 0xa5202774#32, 0xefcdab89#32, 0x98badcfe#32⟩, 1#7) := by decide

/-- V17, fourth table, i = 16. -/
theorem test_stepq1 :
    (nextState? (exec (.stepq1 0)
      (compressing 16 ⟨0x01234567#32, 0x89abcdef#32, 0xfedcba98#32, 0x76543210#32⟩ 0xdeadbeef#32))).map (·.w) =
      some ⟨0x76543210#32, 0x58a215fa#32, 0x89abcdef#32, 0xfedcba98#32⟩ := by decide

/-- V17, third table, i = 32. -/
theorem test_stepq2 :
    (nextState? (exec (.stepq2 0)
      (compressing 32 ⟨0x80000000#32, 0x7fffffff#32, 0x00000001#32, 0xfffffffe#32⟩ 0x80000000#32))).map (·.w) =
      some ⟨0xfffffffe#32, 0x7fa39426#32, 0x7fffffff#32, 0x00000001#32⟩ := by decide

/-- V17, first table, i = 63: i becomes 64. -/
theorem test_stepq3 :
    (nextState? (exec (.stepq3 15) (compressing 63 Quad.zero 0))).map (fun t => (t.w, t.i, t.ph)) =
      some (⟨0#32, 0x721d70da#32, 0#32, 0#32⟩, 64#7, .comp) := by decide

/-- V18: the last block of the empty message. -/
theorem test_feed :
    (nextState? (exec .feed
      { compressing 64 ⟨0x7246fad3#32, 0x14e45506#32, 0xff4ea3eb#32, 0x6e10a476#32⟩ 0 with lk := 8, fin := true })).map
      (fun t => (t.h, t.fill, t.oi, t.ph)) =
      some (⟨0xd98c1dd4#32, 0x04b2008f#32, 0x980980e9#32, 0x7e42f8ec#32⟩, 0#7, 0#6, .out) := by decide

/-- V18: a block that is not the last returns to PADZ after FINAL and to ABSORB before it. -/
theorem test_feed_next_phase :
    (nextState? (exec .feed { compressing 64 iv 0 with fin := true })).map (·.ph) = some .padz ∧
    (nextState? (exec .feed (compressing 64 iv 0))).map (·.ph) = some .absorb := by decide

/-- V19: the sixteenth beat of the byte form. -/
theorem test_pop_last :
    (nextState? (exec .pop (serving false 15))).map (fun t => (t.beats, t.oi, t.ph)) =
      some ([0x17e#9], 16#6, .idle) := by decide

/-- V19: beats 0 and 15 of the character form. -/
theorem test_pop_hex :
    (nextState? (exec .pop (serving true 0))).map (fun t => (t.beats, t.oi, t.ph)) = some ([0x064#9], 1#6, .out) ∧
    (nextState? (exec .pop (serving true 15))).map (fun t => (t.oi, t.ph)) = some (16#6, .out) := by decide

/-- V22: RST from FAULT. -/
theorem test_rst :
    (nextState? (exec .rst faulted)).map (fun t => (t.ph, t.err, t.ecause, t.einfo)) =
      some (.idle, false, 0#2, 0#10) := by decide

/-! ### The step -/

/-- V21: an illegal word in IDLE reports ILLEGAL_CMD although the phase is wrong too. -/
theorem test_step_illegal :
    (nextState? (step (offering State.reset 0x3AA#10))).map (fun t => (t.ph, t.ecause, t.einfo, t.ports.cmd)) =
      some (.fault, 1#2, 0x3AA#10, none) := by decide

/-- P5: in FAULT an offered INIT waits at the port. -/
theorem test_step_waits : nextState? (step (offering faulted 0x000#10)) = some (offering faulted 0x000#10) := by decide

/-- R213: the reset input wins over an offered command, which stays offered. -/
theorem test_step_reset_wins :
    (nextState? (step { absorbing 3 24 with ports := ⟨some 0x161#10, false, true⟩ })).map
      (fun t => (t.ph, t.ports)) = some (.idle, ⟨some 0x161#10, false, false⟩) := by decide

/-- R108, R109: the script of a small host program. -/
theorem test_program_script :
    programScript [.initHex, .msg [0x61#8], .final, .pop, .rst] =
      [.offer 0x001#10, .offer 0x161#10, .offer 0x200#10, .popRequest, .settle, .withdrawAll, .reset] := by
  decide

/-- R108: the line `rst` after `final` and `pop` is not made while the waiting FINAL can still be accepted. -/
theorem test_rst_line_waits :
    (nextState? (step { offering (absorbing 0 512) 0x200#10 with script := ProgramLine.rst.acts })).map
      (fun t => (t.ph, t.fin, t.script)) = some (.padz, true, ProgramLine.rst.acts) := by decide

/-! ### Witnesses: states and operands that meet the statements' hypotheses -/

/-- The fields of `Inv` on a state written out. -/
theorem inv_absorbing : Inv (absorbing 63 504) :=
  ⟨by decide, by decide, by decide, by decide, by decide, by decide, by decide, by decide, by unfold inSession; decide⟩

theorem inv_zeroFilling : Inv (zeroFilling 57) :=
  ⟨by decide, by decide, by decide, by decide, by decide, by decide, by decide, by decide, by unfold inSession; decide⟩

theorem inv_lengthening : Inv (lengthening 7 8) :=
  ⟨by decide, by decide, by decide, by decide, by decide, by decide, by decide, by decide, by unfold inSession; decide⟩

theorem inv_compressing : Inv (compressing 64 iv 0) :=
  ⟨by decide, by decide, by decide, by decide, by decide, by decide, by decide, by decide, by unfold inSession; decide⟩

theorem inv_serving : Inv (serving true 31) :=
  ⟨by decide, by decide, by decide, by decide, by decide, by decide, by decide, by decide, by unfold inSession; decide⟩

theorem inv_faulted : Inv faulted :=
  ⟨by decide, by decide, by decide, by decide, by decide, by decide, by decide, by decide, by unfold inSession; decide⟩

/-- EveryCommandWordDecodesToOneClass: the boundary words of every clause. -/
theorem witness_command_words :
    (0x001#10).toNat ≤ 0x001 ∧ 0x100 ≤ (0x100#10).toNat ∧ (0x1FF#10).toNat ≤ 0x1FF ∧ (0x200#10).toNat = 0x200 ∧
    0x002 ≤ (0x002#10).toNat ∧ (0x0FF#10).toNat ≤ 0x0FF ∧ 0x201 ≤ (0x201#10).toNat ∧ (0x2FF#10).toNat ≤ 0x2FF ∧
    0x300 ≤ (0x300#10).toNat ∧ (0x3FF#10).toNat ≤ 0x3FF := by decide

/-- DecodingInvertsEncoding. -/
theorem witness_decode_encode :
    Instr.feed.wellFormed = true ∧ (Instr.stepq3 15).wellFormed = true ∧ decodeCmd 0x1FF#10 = .ok (.data 0xFF) := by
  decide

/-- RoundIndexSelectsStepAndWord: both ends of every quadrant. -/
theorem witness_round_index :
    (15#6).toNat < 16 ∧ 16 ≤ (16#6).toNat ∧ (31#6).toNat < 32 ∧ 32 ≤ (32#6).toNat ∧ (47#6).toNat < 48 ∧
    48 ≤ (48#6).toNat ∧ indexQ1 (1#2 ++ 3#4) = indexQ1 (1#2 ++ 3#4) := by decide

/-- RotationMovesTopBitsToBottom: the least and the greatest amount. -/
theorem witness_rotation : (0 < 1 ∧ 1 < 32) ∧ (0 < 31 ∧ 31 < 32) := by decide

/-- HexDigitIsLowercaseAscii: both clauses at their boundary. -/
theorem witness_hexdigit : (9#4).toNat ≤ 9 ∧ 10 ≤ (10#4).toNat := by decide

/-- LengthFieldIsTheBitCount: the last byte. -/
theorem witness_length_byte : 7 < 8 := by decide

/-- InitBeginsASession, and the IDLE clauses of CommandInTheWrongPhaseFaults. -/
theorem witness_idle : State.reset.ph = .idle := by decide

/-- DataStoresTheByteAndCounts, FinalStoresTheMarker, and the ABSORB clause of CommandInTheWrongPhaseFaults: an empty and
a nearly full block. -/
theorem witness_absorb :
    ((absorbing 0 0).ph = .absorb ∧ (absorbing 0 0).fill.toNat < 64) ∧
    ((absorbing 63 504).ph = .absorb ∧ (absorbing 63 504).fill.toNat < 64) := by decide

/-- FaultEntryMakesFourWrites: an illegal word, INIT in ABSORB, DATA and FINAL in IDLE. -/
theorem witness_fault_entry :
    ((offering State.reset 0x300#10).ports.rst = false ∧ cmdReady (offering State.reset 0x300#10) = true ∧
      (offering State.reset 0x300#10).ports.cmd = some 0x300#10 ∧ decodeCmd 0x300#10 = .rejected .reservedOp) ∧
    (cmdReady (offering (absorbing 3 24) 0x001#10) = true ∧ decodeCmd 0x001#10 = .ok (.init true) ∧
      (offering (absorbing 3 24) 0x001#10).ph = .absorb) ∧
    (decodeCmd 0x1FF#10 = .ok (.data 0xFF#8) ∧ decodeCmd 0x200#10 = .ok .final ∧
      (offering State.reset 0x200#10).ph = .idle) := by decide

/-- RequestsWaitWhileNotReady. -/
theorem witness_not_ready :
    cmdReady (compressing 0 iv 0) = false ∧ outValid (compressing 0 iv 0) = false ∧ cmdReady (serving true 0) = false ∧
    outValid State.reset = false := by decide

/-- PadzAppendsAZeroByte, PadzendEntersTheLengthField: fill on both sides of 56, at 63, and at 56. -/
theorem witness_padz :
    ((zeroFilling 55).ph = .padz ∧ (zeroFilling 55).fill ≠ 56 ∧ (zeroFilling 55).fill.toNat < 64) ∧
    ((zeroFilling 63).fill ≠ 56 ∧ (zeroFilling 63).fill.toNat < 64) ∧
    ((zeroFilling 56).ph = .padz ∧ (zeroFilling 56).fill = 56) := by decide

/-- PadlStoresTheNextLengthByte: the first and the last byte. -/
theorem witness_padl :
    ((lengthening 0 8).ph = .padl ∧ (lengthening 0 8).lk.toNat < 8 ∧ (lengthening 0 8).fill.toNat < 64) ∧
    ((lengthening 7 8).lk.toNat < 8 ∧ (lengthening 7 8).fill.toNat < 64) := by decide

/-- StepOperationsPerformTheRound: the first or last position of every quadrant. -/
theorem witness_steps :
    (compressing 0 iv 0).ph = .comp ∧ (compressing 0 iv 0).i.toNat = (0#4).toNat ∧
    (compressing 31 iv 0).i.toNat = 16 + (15#4).toNat ∧ (compressing 32 iv 0).i.toNat = 32 + (0#4).toNat ∧
    (compressing 63 iv 0).i.toNat = 48 + (15#4).toNat := by decide

/-- FeedAddsAndChoosesThePhase. -/
theorem witness_feed : (compressing 64 iv 0).ph = .comp ∧ (compressing 64 iv 0).i = 64 := by decide

/-- PopReturnsTheNextBeat: the last beat of both forms. -/
theorem witness_pop :
    ((serving false 15).ph = .out ∧ (serving false 15).oi.toNat ≤ (if (serving false 15).hexm then 31 else 15)) ∧
    ((serving true 31).ph = .out ∧ (serving true 31).oi.toNat ≤ (if (serving true 31).hexm then 31 else 15)) := by decide

/-- RstReachesIdleAndForgets, second clause: two states that differ in every kind of register. -/
theorem witness_rst :
    faulted.draws = (compressing 5 iv 7).draws ∧ faulted.ports = (compressing 5 iv 7).ports ∧
    faulted.script = (compressing 5 iv 7).script ∧ faulted.beats = (compressing 5 iv 7).beats ∧
    faulted ≠ compressing 5 iv 7 := by decide

/-- OperationsStopWhereTheyHaveNoStep: each clause. -/
theorem witness_stops :
    ¬ (State.reset.ph = .padz ∧ State.reset.fill ≠ 56) ∧ ¬ (State.reset.ph = .padz ∧ State.reset.fill = 56) ∧
    State.reset.ph ≠ .padl ∧ ¬ (State.reset.ph = .comp ∧ State.reset.i = 64) ∧
    ¬ ((compressing 3 iv 0).ph = .comp ∧ (compressing 3 iv 0).i.toNat = (4#4).toNat) ∧
    ¬ ((compressing 3 iv 0).ph = .comp ∧ (compressing 3 iv 0).i.toNat = 16 + (3#4).toNat) ∧
    ¬ ((compressing 3 iv 0).ph = .comp ∧ (compressing 3 iv 0).i.toNat = 32 + (3#4).toNat) ∧
    ¬ ((compressing 3 iv 0).ph = .comp ∧ (compressing 3 iv 0).i.toNat = 48 + (3#4).toNat) ∧
    (64 ≤ (absorbing 64 0).fill.toNat ∧ (absorbing 64 0).ph = .absorb) ∧
    (64 ≤ (zeroFilling 64).fill.toNat ∧ (zeroFilling 64).ph = .padz) ∧
    (64 ≤ (lengthening 8 0).fill.toNat ∧ (lengthening 8 0).ph = .padl ∧ 8 ≤ (lengthening 8 0).lk.toNat) ∧
    ((serving false 16).ph = .out ∧ (if (serving false 16).hexm then 31 else 15) < (serving false 16).oi.toNat) ∧
    ((serving true 32).ph = .out ∧ (if (serving true 32).hexm then 31 else 15) < (serving true 32).oi.toNat) := by decide

/-- RegistersChangeOnlyByTheirWriters. -/
theorem witness_writers :
    exec .padzend (zeroFilling 56) = .next { zeroFilling 56 with ph := .padl } ∧
    Instr.padzend.mnemonic ∉ ["INIT", "FEED", "RST"] := ⟨rfl, by decide⟩

/-- PhasesFollowTheTransitionTable. -/
theorem witness_transition : Inv (zeroFilling 57) ∧ (nextState? (exec .padz (zeroFilling 57))).isSome = true :=
  ⟨inv_zeroFilling, by decide⟩

/-- PhaseSelectsTheInternalOperation: each clause. -/
theorem witness_selection :
    ((zeroFilling 57).ph = .padz ∧ (zeroFilling 57).fill ≠ 56) ∧
    ((zeroFilling 56).ph = .padz ∧ (zeroFilling 56).fill = 56) ∧ (lengthening 0 0).ph = .padl ∧
    ((compressing 63 iv 0).ph = .comp ∧ (compressing 63 iv 0).i.toNat < 64) ∧
    ((compressing 64 iv 0).ph = .comp ∧ (compressing 64 iv 0).i = 64) ∧
    ((compressing 65 iv 0).ph = .comp ∧ 64 < (compressing 65 iv 0).i.toNat) ∧
    (State.reset.ph = .idle ∧ (absorbing 0 0).ph = .absorb ∧ (serving true 0).ph = .out ∧ faulted.ph = .fault) := by
  decide

/-- StepPerformsTheSelectedOperation: each clause. -/
theorem witness_step :
    hostMove (offering State.reset 0x001#10) = offering State.reset 0x001#10 ∧
    ({ faulted with ports := ⟨none, true, true⟩ } : State).ports.rst = true ∧
    selectInternal (lengthening 0 0) = some .padl ∧
    (cmdReady (offering State.reset 0x001#10) = true ∧ decodeCmd 0x001#10 = .ok (.init true)) ∧
    (cmdReady (offering (absorbing 0 0) 0x3FF#10) = true ∧ decodeCmd 0x3FF#10 = .rejected .reservedOp) ∧
    (cmdReady State.reset = true ∧ State.reset.ports.cmd = none) ∧
    (outValid (serving true 0) = true ∧ (serving true 0).ports.pop = true) ∧
    (outValid { serving true 0 with ports := Ports.none } = true) ∧
    ((compressing 65 iv 0).ph = .comp ∧ 64 < (compressing 65 iv 0).i.toNat) := by decide

/-- PlacedWordRunsInTheNextStep. -/
theorem witness_placed : decodeTableWord 16 0x1FF = some (.data 0xFF) ∧ decodeTableWord 8 0x3F = some (.stepq3 15) := by
  decide

/-- FaultPhaseEnablesOnlyReset. -/
theorem witness_fault_phase :
    faulted.ph = .fault ∧ faulted.ports.rst = false ∧
    ({ faulted with ports := ⟨none, false, true⟩ } : State).ports.rst = true := by decide

/-- FaultsComeOnlyFromAcceptedWords. -/
theorem witness_fault_source :
    (offering State.reset 0x300#10).err = false ∧
    (nextState? (step (offering State.reset 0x300#10))).map (·.err) = some true := by decide

/-- OfferedWordIsHeldUntilAccepted: a word that waits and a word that is taken. -/
theorem witness_held :
    ((nextState? (step (offering (compressing 3 iv 0) 0x161#10))).map (·.ports.cmd) = some (some 0x161#10) ∧
      (offering (compressing 3 iv 0) 0x161#10).script = []) ∧
    (nextState? (step (offering State.reset 0x000#10))).map (·.ports.cmd) = some none := by decide

/-- BeatsComeFromPopInPhaseOut: a step that adds a beat. -/
theorem witness_beat : (nextState? (step (serving false 15))).map (·.beats) = some [0x17e#9] := by decide

/-- StepKeepsTheInvariant, EveryWellFormedStateSteps and ExactlyOneStatusOutputIsSet: a state of every phase. -/
theorem witness_invariant :
    Inv (absorbing 63 504) ∧ Inv (zeroFilling 57) ∧ Inv (lengthening 7 8) ∧ Inv (compressing 64 iv 0) ∧
    Inv (serving true 31) ∧ Inv faulted ∧ (nextState? (step (compressing 64 iv 0))).isSome = true :=
  ⟨inv_absorbing, inv_zeroFilling, inv_lengthening, inv_compressing, inv_serving, inv_faulted, by decide⟩

/-- StepKeepsTheStoredLengthField, LastBlockHoldsTheLength: PADL before the last byte of LEN = 0, and the last block. -/
theorem witness_length_field :
    Inv (lengthening 7 0) ∧ LengthFieldStored (lengthening 7 0) ∧
    (nextState? (step (lengthening 7 0))).isSome = true ∧
    LengthFieldStored { compressing 0 iv 0 with lk := 8, fin := true } := by
  refine ⟨⟨by decide, by decide, by decide, by decide, by decide, by decide, by decide, by decide, ?_⟩, ?_, by decide, ?_⟩
  · unfold inSession; decide
  · unfold LengthFieldStored; decide
  · unfold LengthFieldStored; decide

/-- SixtyFiveOperationsCompressTheBlock, with a command word and a pop request waiting. -/
theorem witness_compress :
    (compressing 0 iv 7).ph = .comp ∧ (compressing 0 iv 7).i = 0 ∧ (compressing 0 iv 7).w = (compressing 0 iv 7).h ∧
    HostSilent { compressing 0 iv 7 with ports := ⟨some 0x161#10, true, false⟩ } :=
  ⟨rfl, rfl, rfl, rfl, rfl⟩

/-- SessionDeliversTheDigest, from a state whose registers an earlier session left. -/
theorem witness_session :
    ({ serving true 32 with ph := .idle, ports := Ports.none, script := session false [0x31#8] } : State).ph = .idle ∧
    ({ serving true 32 with ph := .idle, ports := Ports.none, script := session false [0x31#8] } : State).ports =
      Ports.none := by decide

/-- OldRegisterContentsNeverShow: two idle states that differ, with the same host, and a step that answers. -/
theorem witness_old_registers :
    ({ absorbing 5 40 with ph := .idle, script := session true [] } : State) ≠
      { State.reset with script := session true [] } ∧
    (nextState? (run 1 { State.reset with script := session true [] })).isSome = true := by decide

/-- BusyPhasesEndWithinTheBound: the longest case, and one where the message has not ended. -/
theorem witness_busy :
    (Inv (zeroFilling 57) ∧ HostSilent (zeroFilling 57)) ∧
    (Inv (compressing 64 iv 0) ∧ HostSilent (compressing 64 iv 0) ∧ (compressing 64 iv 0).fin = false) :=
  ⟨⟨inv_zeroFilling, rfl, rfl⟩, inv_compressing, ⟨rfl, rfl⟩, rfl⟩

/-- ResetLineWaitsForTheLinesBefore: in the first clause an internal operation, a command and a pop still to be
performed; in the second FAULT with a command and a pop that never are (P5). -/
theorem witness_reset_line :
    (Inv (zeroFilling 57) ∧ busy (zeroFilling 57) = true) ∧
    (Inv (absorbing 63 504) ∧ cmdReady (absorbing 63 504) = true ∧
      (offering (absorbing 63 504) 0x200#10).ports.cmd ≠ none) ∧
    (Inv (serving true 31) ∧ outValid (serving true 31) = true ∧ (serving true 31).ports.pop = true) ∧
    (Inv faulted ∧ busy faulted = false ∧ cmdReady faulted = false ∧ outValid faulted = false ∧
      ({ faulted with ports := ⟨some 0x000#10, true, false⟩ } : State).ports.rst = false) :=
  ⟨⟨inv_zeroFilling, by decide⟩, ⟨inv_absorbing, by decide, by decide⟩, ⟨inv_serving, by decide, by decide⟩,
    inv_faulted, by decide, by decide, by decide, by decide⟩

/-- InstancesDoNotInterfere. -/
theorem witness_instances : (0 : Nat) ≠ 1 := by decide

end Sys2Proof.Tests
end

section
/-! SUPPORT. The rotation and its amounts (00_scope.md R11). -/

namespace Sys2Proof.Machine

/-- The value of a rotation: the bits shifted up, cut at 32 bits, joined with those that move to the bottom (R11). -/
theorem toNat_rotl32 (x : Word) (n : Nat) :
    (rotl32 x n).toNat = (x.toNat * 2 ^ n % 2 ^ 32) ||| (x.toNat / 2 ^ (32 - n)) := by
  simp [rotl32, Nat.shiftLeft_eq, Nat.shiftRight_eq_div_pow]

/-- The model's rotation is the library's on every amount below the width. -/
theorem rotl32_eq_rotateLeft (x : Word) {n : Nat} (hn : n < 32) : rotl32 x n = x.rotateLeft n := by
  rw [BitVec.rotateLeft_eq_rotateLeftAux_of_lt hn]
  rfl

/-- The rotation amounts of table S lie between 4 and 23 (R11). -/
theorem amountS_range (i : BitVec 6) : 4 ≤ (amountS i).toNat ∧ (amountS i).toNat ≤ 23 := by
  revert i
  decide

/-- Settles O5: the arithmetic reading of the two shifts, the library's rotation below the width, and table S. -/
theorem rotationMovesTopBitsToBottom : Obligations.RotationMovesTopBitsToBottom :=
  ⟨fun x n _ hn => ⟨toNat_rotl32 x n, rotl32_eq_rotateLeft x hn⟩, amountS_range⟩

end Sys2Proof.Machine
end

section
/-! SUPPORT. Where a shared operation and a meaning stop: an internal operation outside its enabling condition (R13),
and a register value no rule produces (U14). -/

namespace Sys2Proof.Machine

/-! ### The shared operations -/

/-- PutByte with `fill` past the block has no successor. -/
theorem putByte_overfull {v : Byte} {np : Phase} {s : State} (h : 64 ≤ s.fill.toNat) :
    putByte v np s = .fault .unreachedValue := if_pos h

/-- A legal command in the phase that allows it has its effect. -/
theorem acceptCommand_allowed {cw : CmdWord} {ph : Phase} {effect : State → Result} {s : State}
    (hr : cmdReady s = true) (hp : s.ph = ph) : acceptCommand cw ph effect s = effect s.takeCmd := by
  rw [acceptCommand, if_pos hr, if_pos hp]

/-- A storing command (DATA, FINAL) in phase ABSORB with `fill` past the block. -/
theorem acceptStore_overfull {cw : CmdWord} {v : Byte} {np : Phase} {pre : State → State} {s : State}
    (hp : s.ph = .absorb) (hf : 64 ≤ (pre s.takeCmd).fill.toNat) :
    acceptCommand cw .absorb (fun s => putByte v np (pre s)) s = .fault .unreachedValue := by
  have hr : cmdReady s = true := (cmdReady_iff s).mpr (.inr hp)
  rw [acceptCommand_allowed hr hp, putByte_overfull hf]

/-- A step operation is not enabled where the step counter does not hold its round index. -/
theorem runStep_disabled {idx : BitVec 6} {f : Quad → Word} {g : BitVec 6 → BitVec 4} {s : State}
    (h : ¬ (s.ph = .comp ∧ s.i.toNat = idx.toNat)) : runStep idx f g s = .fault .notEnabled := by
  refine if_neg fun ⟨hp, hi⟩ => h ⟨hp, ?_⟩
  rw [hi, BitVec.toNat_setWidth_of_le (by decide)]

/-- The number of the last beat: 31 in the hexadecimal form, 15 in the binary one (R193). -/
theorem toNat_lastBeat (hexm : Bool) : (lastBeat hexm).toNat = if hexm then 31 else 15 := by
  cases hexm <;> rfl

/-! ### The internal operations outside their enabling condition -/

/-- PADZ outside phase PADZ, or where the length field begins. -/
theorem exec_padz_disabled {s : State} (h : ¬ (s.ph = .padz ∧ s.fill ≠ 56#7)) :
    exec .padz s = .fault .notEnabled := if_neg h

/-- PADZEND anywhere but at the end of the zero fill. -/
theorem exec_padzend_disabled {s : State} (h : ¬ (s.ph = .padz ∧ s.fill = 56#7)) :
    exec .padzend s = .fault .notEnabled := if_neg h

/-- PADL outside phase PADL. -/
theorem exec_padl_disabled {s : State} (h : s.ph ≠ .padl) : exec .padl s = .fault .notEnabled := if_neg h

/-- FEED before the 64 steps are done. -/
theorem exec_feed_disabled {s : State} (h : ¬ (s.ph = .comp ∧ s.i = 64#7)) :
    exec .feed s = .fault .notEnabled := if_neg h

/-- The four step operations, for the round index they are selected by. -/
theorem exec_step_disabled {i : Instr} {idx : BitVec 6} {s : State} (hi : encode i = .step idx)
    (h : ¬ (s.ph = .comp ∧ s.i.toNat = idx.toNat)) : exec i s = .fault .notEnabled := by
  cases i <;> simp only [encode, Encoded.step.injEq, reduceCtorEq] at hi <;> subst hi <;> exact runStep_disabled h

/-! ### Register values no rule produces -/

/-- DATA with `fill` past the block. -/
theorem exec_data_overfull {d : Byte} {s : State} (hp : s.ph = .absorb) (hf : 64 ≤ s.fill.toNat) :
    exec (.data d) s = .fault .unreachedValue := by
  simp only [exec, execData]
  exact acceptStore_overfull hp hf

/-- FINAL with `fill` past the block. -/
theorem exec_final_overfull {s : State} (hp : s.ph = .absorb) (hf : 64 ≤ s.fill.toNat) :
    exec .final s = .fault .unreachedValue := by
  simp only [exec, execFinal]
  exact acceptStore_overfull hp hf

/-- PADZ with `fill` past the block, where it is enabled. -/
theorem exec_padz_overfull {s : State} (hp : s.ph = .padz) (hf : 64 ≤ s.fill.toNat) :
    exec .padz s = .fault .unreachedValue := by
  have hne : s.fill ≠ 56#7 := fun h => by simp [h] at hf
  exact (if_pos ⟨hp, hne⟩).trans (putByte_overfull hf)

/-- PADL with `lk` past the eight bytes of LEN. -/
theorem exec_padl_pastLen {s : State} (hp : s.ph = .padl) (hk : 8 ≤ s.lk.toNat) :
    exec .padl s = .fault .unreachedValue := (if_pos hp).trans (if_pos hk)

/-- PADL with `fill` past the block, whatever `lk` holds. -/
theorem exec_padl_overfull {s : State} (hp : s.ph = .padl) (hf : 64 ≤ s.fill.toNat) :
    exec .padl s = .fault .unreachedValue := by
  by_cases hk : 8 ≤ s.lk.toNat
  · exact exec_padl_pastLen hp hk
  · exact ((if_pos hp).trans (if_neg hk)).trans (putByte_overfull hf)

/-- POP with `oi` past the last beat. -/
theorem exec_pop_pastLast {s : State} (hp : s.ph = .out) (ho : (lastBeat s.hexm).toNat < s.oi.toNat) :
    exec .pop s = .fault .unreachedValue := (if_pos ((outValid_iff s).mpr hp)).trans (if_pos ho)

/-- Settles O26, clause by clause. -/
theorem operationsStopWhereTheyHaveNoStep : Obligations.OperationsStopWhereTheyHaveNoStep := by
  intro s
  refine ⟨exec_padz_disabled, exec_padzend_disabled, exec_padl_disabled, exec_feed_disabled, fun r => ?_, fun hf => ?_,
    exec_padl_pastLen, fun hp ho => exec_pop_pastLast hp (by rwa [toNat_lastBeat])⟩
  · exact ⟨fun h => exec_step_disabled rfl (by rwa [toNat_quadrant0]),
      fun h => exec_step_disabled rfl (by rwa [toNat_quadrant1]),
      fun h => exec_step_disabled rfl (by rwa [toNat_quadrant2]),
      fun h => exec_step_disabled rfl (by rwa [toNat_quadrant3])⟩
  · exact ⟨fun hp => ⟨fun _ => exec_data_overfull hp hf, exec_final_overfull hp hf⟩,
      fun hp => exec_padz_overfull hp hf, fun hp => exec_padl_overfull hp hf⟩

end Sys2Proof.Machine
end

section
/-! SUPPORT. The sequencer's choice over the state: which internal operation a phase enables (R33, R105), and the order
of reset, internal operation, command word, pop request and wait (R213, R122, R193). -/

namespace Sys2Proof.Machine

/-! ### The internal operation of a phase -/

/-- PADZ is enabled during the zero fill, up to offset 56. -/
theorem selectInternal_padz {s : State} (hp : s.ph = .padz) (hf : s.fill ≠ 56#7) : selectInternal s = some .padz := by
  simp [selectInternal, selVector, hp, hf]

/-- PADZEND is enabled where the zero fill has reached offset 56. -/
theorem selectInternal_padzend {s : State} (hp : s.ph = .padz) (hf : s.fill = 56#7) :
    selectInternal s = some .padzend := by
  simp [selectInternal, selVector, hp, hf]

/-- PADL is enabled throughout phase PADL. -/
theorem selectInternal_padl {s : State} (hp : s.ph = .padl) : selectInternal s = some .padl := by
  simp [selectInternal, selVector, hp, decodeSel_padl _ (fill_bits_exclusive s)]

/-- FEED is enabled after the 64 steps. -/
theorem selectInternal_feed {s : State} (hp : s.ph = .comp) (hi : s.i = 64#7) : selectInternal s = some .feed := by
  simp [selectInternal, selVector, hp, hi, decodeSel_feed (fill_bits_exclusive s)]

/-- In phase COMP with i not 64 the choice is by format STEP, and there is none above 64. -/
theorem selectInternal_comp {s : State} (hp : s.ph = .comp) (hi : s.i ≠ 64#7) :
    selectInternal s = if s.i.toNat < 64 then some (decodeStep (BitVec.ofNat 6 s.i.toNat)) else none := by
  have hidx : s.i.extractLsb' 0 6 = BitVec.ofNat 6 s.i.toNat := by
    apply BitVec.eq_of_toNat_eq
    simp
  simp [selectInternal, selVector, hp, hi, decodeSel_step (fill_bits_exclusive s), hidx]

/-- Outside PADZ, PADL and COMP no internal operation is enabled. -/
theorem selectInternal_none {s : State} (hp : s.ph = .idle ∨ s.ph = .absorb ∨ s.ph = .out ∨ s.ph = .fault) :
    selectInternal s = none := by
  rcases hp with hp | hp | hp | hp <;>
    simp [selectInternal, selVector, hp, decodeSel_none _ (fill_bits_exclusive s)]

/-- In phase COMP below 64 the step operation of the index is enabled. -/
theorem selectInternal_step {s : State} (hp : s.ph = .comp) (hi : s.i.toNat < 64) :
    selectInternal s = some (decodeStep (BitVec.ofNat 6 s.i.toNat)) := by
  rw [selectInternal_comp hp (fun h => by simp [h] at hi), if_pos hi]

/-- In phase COMP past 64 nothing is enabled. -/
theorem selectInternal_beyond {s : State} (hp : s.ph = .comp) (hi : 64 < s.i.toNat) : selectInternal s = none := by
  rw [selectInternal_comp hp (fun h => by simp [h] at hi), if_neg (by omega)]

/-- Settles O29, phase by phase. -/
theorem phaseSelectsTheInternalOperation : Obligations.PhaseSelectsTheInternalOperation := fun _ =>
  ⟨selectInternal_padz, selectInternal_padzend, selectInternal_padl, selectInternal_step, selectInternal_feed,
    selectInternal_beyond, selectInternal_none⟩

/-- A ready CORE has no internal operation to perform. -/
theorem selectInternal_of_cmdReady {s : State} (h : cmdReady s = true) : selectInternal s = none :=
  selectInternal_none (((cmdReady_iff s).mp h).elim .inl (.inr ∘ .inl))

/-- A CORE that serves beats has no internal operation to perform. -/
theorem selectInternal_of_outValid {s : State} (h : outValid s = true) : selectInternal s = none :=
  selectInternal_none (.inr (.inr (.inl ((outValid_iff s).mp h))))

/-- A CORE that serves beats accepts no command word. -/
theorem cmdReady_of_outValid {s : State} (h : outValid s = true) : cmdReady s = false := by
  simp [cmdReady, (outValid_iff s).mp h]

/-! ### The order of the requests -/

/-- The request vector decodes to RST exactly where the reset input is applied. -/
theorem decodeReq_reqVector_rst_iff (s : State) : decodeReq (reqVector s) = .ok .rst ↔ s.ports.rst = true := by
  unfold reqVector
  cases s.ports.rst <;> cases s.ports.pop <;> simp

/-- Reset wins over everything. -/
theorem select_of_rst {s : State} (hr : s.ports.rst = true) : select s = .perform .rst :=
  if_pos ((decodeReq_reqVector_rst_iff s).mpr hr)

/-- Without a reset an enabled internal operation is performed. -/
theorem select_of_internal {s : State} {i : Instr} (hr : s.ports.rst = false) (hi : selectInternal s = some i) :
    select s = .perform i := by
  simp [select, decodeReq_reqVector_rst_iff, hr, hi]

/-- A legal command word offered to a ready CORE. -/
theorem select_of_command {s : State} {cw : CmdWord} {i : Instr} (hr : s.ports.rst = false) (hc : cmdReady s = true)
    (hw : s.ports.cmd = some cw) (hd : decodeCmd cw = .ok i) : select s = .perform i := by
  simp [select, decodeReq_reqVector_rst_iff, hr, selectInternal_of_cmdReady hc, hc, hw, hd]

/-- An illegal command word offered to a ready CORE. -/
theorem select_of_illegal {s : State} {cw : CmdWord} {why : DecodeError} (hr : s.ports.rst = false)
    (hc : cmdReady s = true) (hw : s.ports.cmd = some cw) (hd : decodeCmd cw = .rejected why) :
    select s = .illegal cw := by
  simp [select, decodeReq_reqVector_rst_iff, hr, selectInternal_of_cmdReady hc, hc, hw, hd]

/-- A pop request in phase OUT. -/
theorem select_of_pop {s : State} (hr : s.ports.rst = false) (ho : outValid s = true) (hp : s.ports.pop = true) :
    select s = .perform .pop := by
  simp [select, reqVector, hr, hp, selectInternal_of_outValid ho, cmdReady_of_outValid ho, ho]

/-- A ready CORE without a command word waits. -/
theorem select_of_no_command {s : State} (hr : s.ports.rst = false) (hc : cmdReady s = true)
    (hw : s.ports.cmd = none) : select s = .wait :=
  select_eq_wait_iff.mpr ⟨hr, selectInternal_of_cmdReady hc, fun _ => hw,
    fun ho => by simp [cmdReady_of_outValid ho] at hc⟩

/-- A CORE that serves beats waits without a pop request. -/
theorem select_of_no_pop {s : State} (hr : s.ports.rst = false) (ho : outValid s = true)
    (hp : s.ports.pop = false) : select s = .wait :=
  select_eq_wait_iff.mpr ⟨hr, selectInternal_of_outValid ho, fun hc => by simp [cmdReady_of_outValid ho] at hc,
    fun _ => hp⟩

/-- With a step counter past 64, which no rule produces in phase COMP, CORE waits for a reset. -/
theorem select_of_beyond {s : State} (hr : s.ports.rst = false) (hp : s.ph = .comp) (hi : 64 < s.i.toNat) :
    select s = .wait :=
  select_eq_wait_iff.mpr ⟨hr, selectInternal_beyond hp hi, fun hc => by simp [cmdReady, hp] at hc,
    fun ho => by simp [outValid, hp] at ho⟩

/-! ### CORE's part of a step, by the choice -/

/-- A selected operation is performed. -/
theorem coreMove_of_perform {s : State} {i : Instr} (h : select s = .perform i) : coreMove s = exec i s := by
  rw [coreMove, h]

/-- Where nothing is selected the state stays. -/
theorem coreMove_of_wait {s : State} (h : select s = .wait) : coreMove s = .next s := by
  rw [coreMove, h]

/-- An illegal word selected by a ready CORE makes the four writes of the fault entry and leaves its port. -/
theorem coreMove_of_illegal {s : State} {cw : CmdWord} (h : select s = .illegal cw) :
    coreMove s = .next (protocolFault .illegalCmd cw s.takeCmd) := by
  rw [coreMove, h]
  simp [acceptIllegal, (select_illegal h).2.1]

/-- Settles O30: after the host's move, by the order of the requests. -/
theorem stepPerformsTheSelectedOperation : Obligations.StepPerformsTheSelectedOperation := by
  rintro s _ rfl
  refine ⟨fun hr => coreMove_of_perform (select_of_rst hr), fun hr => ⟨?internal, ?command, ?noCommand, ?pop, ?noPop,
    ?beyond⟩⟩
  case internal => exact fun i hi => coreMove_of_perform (select_of_internal hr hi)
  case command =>
    exact fun hc cw hw => ⟨fun i hd => coreMove_of_perform (select_of_command hr hc hw hd),
      fun why hd => coreMove_of_illegal (select_of_illegal hr hc hw hd)⟩
  case noCommand => exact fun hc hw => coreMove_of_wait (select_of_no_command hr hc hw)
  case pop => exact fun ho hp => coreMove_of_perform (select_of_pop hr ho hp)
  case noPop => exact fun ho hp => coreMove_of_wait (select_of_no_pop hr ho hp)
  case beyond => exact fun hp hi => coreMove_of_wait (select_of_beyond hr hp hi)

end Sys2Proof.Machine
end

section
/-! SUPPORT. The invariant of phase, fault registers and sequencing counters: where it holds, and that every operation
keeps it (10_state.md R25 to R36). -/

namespace Sys2Proof.Machine

/-! ### The reset state and the status outputs -/

/-- Settles O25: every conjunct reads one field of the reset state. -/
theorem resetStateIsIdleAndClear : Obligations.ResetStateIsIdleAndClear := by
  unfold Obligations.ResetStateIsIdleAndClear
  decide

/-- In phase IDLE with clear fault registers the invariant asks nothing of the other registers. -/
theorem inv_of_idle {t : State} (hp : t.ph = .idle) (herr : t.err = false) (hcause : t.ecause = 0#2)
    (hinfo : t.einfo = 0#10) : Inv t where
  err_iff_fault := by simp [hp, herr]
  clear_of_no_err _ := ⟨hcause, hinfo⟩
  cause_of_err h := by simp [herr] at h
  absorb h := by simp [hp] at h
  padz h := by simp [hp] at h
  padl h := by simp [hp] at h
  comp h := by simp [hp] at h
  out h := by simp [hp] at h
  len_bytes h := absurd hp h.1

/-- Settles O36: phase IDLE and ERR = 0 decide both invariants. -/
theorem resetMeetsTheInvariants : Obligations.ResetMeetsTheInvariants :=
  ⟨inv_of_idle rfl rfl rfl rfl, fun h => by simp [State.reset] at h⟩

/-- Under the invariant the output `err` is 1 exactly in phase FAULT. -/
theorem Inv.errOut_iff {s : State} (hs : Inv s) : errOut s = true ↔ s.ph = .fault := hs.err_iff_fault

/-- Settles O41: each output's phases, and the seven phases are shared out among the four. -/
theorem exactlyOneStatusOutputIsSet : Obligations.ExactlyOneStatusOutputIsSet := by
  intro s hs
  refine ⟨?_, cmdReady_iff s, outValid_iff s, busy_iff s, hs.errOut_iff⟩
  have herr : errOut s = decide (s.ph = .fault) := by rw [Bool.eq_iff_iff, hs.errOut_iff, decide_eq_true_iff]
  unfold cmdReady outValid busy
  rw [herr]
  cases s.ph <;> decide

/-! ### States of the invariant -/

/-- No fault is recorded. -/
def NoFault (s : State) : Prop := s.err = false ∧ s.ecause = 0#2 ∧ s.einfo = 0#10

/-- Outside phase FAULT no fault is recorded. -/
theorem Inv.noFault {s : State} (hs : Inv s) (hp : s.ph ≠ .fault) : NoFault s := by
  have herr : s.err = false := Bool.eq_false_iff.mpr fun h => hp (hs.err_iff_fault.mp h)
  exact ⟨herr, hs.clear_of_no_err herr⟩

/-- Every phase but IDLE and FAULT is one of a session. -/
theorem inSession_of_phase {s : State} {p : Phase} (hp : s.ph = p) (h : p ≠ .idle ∧ p ≠ .fault) :
    inSession s := by
  subst hp
  exact h

/-- During a session no fault is recorded, and LEN counts whole bytes. -/
theorem Inv.clear_and_whole {s : State} (hs : Inv s) (hin : inSession s) : NoFault s ∧ s.len.toNat % 8 = 0 :=
  ⟨hs.noFault hin.2, hs.len_bytes hin⟩

/-- The ranges of the sequencing counters in the phase of the state (R25 to R32). -/
def CountersInRange (s : State) : Prop :=
  match s.ph with
  | .idle => True
  | .absorb => s.fill.toNat < 64 ∧ s.lk = 0#4 ∧ s.fin = false
  | .padz => s.fill.toNat < 64 ∧ s.lk = 0#4 ∧ s.fin = true
  | .padl => s.lk.toNat < 8 ∧ s.fill.toNat = 56 + s.lk.toNat ∧ s.fin = true
  | .comp => s.fill = 64#7 ∧ s.i.toNat ≤ 64 ∧ (s.lk = 0#4 ∨ s.lk = 8#4 ∧ s.fin = true)
  | .out => s.i = 64#7 ∧ s.fill = 0#7 ∧ s.lk = 8#4 ∧ s.fin = true ∧ s.oi.toNat ≤ (lastBeat s.hexm).toNat
  | .fault => True

/-- Outside phase FAULT clear fault registers, counters in range and a length in whole bytes make the invariant. An
operation that leaves the fault registers alone hands on the fact about `s` as it stands. -/
theorem NoFault.inv {t : State} (hn : NoFault t) (hp : t.ph ≠ .fault) (hc : CountersInRange t)
    (hlen : t.len.toNat % 8 = 0) : Inv t := by
  obtain ⟨herr, hclear⟩ := hn
  unfold CountersInRange at hc
  constructor
  case err_iff_fault => simp [herr, hp]
  case clear_of_no_err => exact fun _ => hclear
  case cause_of_err => simp [herr]
  case len_bytes => exact fun _ => hlen
  all_goals exact fun h => by simpa only [h] using hc

/-- The fault entry reaches a state of the invariant, from wherever it is taken. -/
theorem inv_protocolFault (c : Cause) (cw : CmdWord) (s : State) : Inv (protocolFault c cw s) where
  err_iff_fault := by simp
  clear_of_no_err h := by simp at h
  cause_of_err _ := by cases c <;> simp
  absorb h := by simp at h
  padz h := by simp at h
  padl h := by simp at h
  comp h := by simp at h
  out h := by simp at h
  len_bytes h := absurd rfl h.2

/-- The host's move keeps the invariant: it touches none of CORE's registers. -/
theorem Inv.after_hostMove {s : State} (hs : Inv s) : Inv (hostMove s) := by
  rw [hostMove_eq]
  exact ⟨hs.1, hs.2, hs.3, hs.4, hs.5, hs.6, hs.7, hs.8, hs.9⟩

/-! ### Every operation keeps the invariant -/

/-- The store of byte 63 enters COMP with the block full and the step counter at 0. -/
theorem NoFault.inv_storeByte_full {s : State} (v : Byte) (hn : NoFault s) (hf : s.fill.toNat = 63)
    (hlk : s.lk = 0#4 ∨ s.lk = 8#4 ∧ s.fin = true) (hlen : s.len.toNat % 8 = 0) :
    Inv { blkStart (storeByte v s) with ph := .comp } := by
  have hfill : s.fill + 1#7 = 64#7 := by
    rw [BitVec.eq_of_toNat_eq (x := s.fill) (y := 63#7) hf]
    rfl
  exact NoFault.inv hn (by simp) ⟨hfill, by simp, hlk⟩ hlen

/-- Within the block the store of a byte advances fill by one, without a carry. -/
theorem toNat_fill_succ {f : BitVec 7} (h : f.toNat < 64) : (f + 1#7).toNat = f.toNat + 1 := by
  rw [BitVec.toNat_add_of_lt] <;> simp; omega

/-- The store of a byte other than the last leaves room in the block. -/
theorem toNat_fill_succ_lt {f : BitVec 7} (h : f.toNat < 63) : (f + 1#7).toNat < 64 := by
  rw [toNat_fill_succ (by omega)]
  omega

/-- Counting 8 more bits keeps LEN a number of whole bytes, also where it wraps. -/
theorem toNat_len_add_mod_eight {len : BitVec 64} (h : len.toNat % 8 = 0) : (add64 len 8#64).toNat % 8 = 0 := by
  simp only [add64, BitVec.toNat_add, BitVec.toNat_ofNat]
  omega

/-- INIT. -/
theorem Inv.after_init {hex : Bool} {s t : State} (hs : Inv s) (h : exec (.init hex) s = .next t) : Inv t := by
  rcases exec_init_next h with ⟨hp, rfl⟩ | ⟨_, rfl⟩ | ⟨_, rfl⟩
  · have hn : NoFault s := hs.noFault (by simp [hp])
    exact NoFault.inv hn (by simp) ⟨by simp, rfl, rfl⟩ (by simp)
  · exact inv_protocolFault ..
  · exact hs

/-- DATA. -/
theorem Inv.after_data {d : Byte} {s t : State} (hs : Inv s) (h : exec (.data d) s = .next t) : Inv t := by
  rcases exec_data_next h with ⟨hp, hf, rfl⟩ | ⟨hp, hf, rfl⟩ | ⟨_, rfl⟩ | ⟨_, rfl⟩
  · obtain ⟨hn, hlen⟩ := hs.clear_and_whole (inSession_of_phase hp (by decide))
    obtain ⟨_, hlk, hfin⟩ := hs.absorb hp
    exact NoFault.inv hn (by simp) ⟨toNat_fill_succ_lt hf, hlk, hfin⟩ (toNat_len_add_mod_eight hlen)
  · obtain ⟨hn, hlen⟩ := hs.clear_and_whole (inSession_of_phase hp (by decide))
    obtain ⟨_, hlk, hfin⟩ := hs.absorb hp
    exact NoFault.inv_storeByte_full d hn hf (.inl hlk) (toNat_len_add_mod_eight hlen)
  · exact inv_protocolFault ..
  · exact hs

/-- FINAL. -/
theorem Inv.after_final {s t : State} (hs : Inv s) (h : exec .final s = .next t) : Inv t := by
  rcases exec_final_next h with ⟨hp, hf, rfl⟩ | ⟨hp, hf, rfl⟩ | ⟨_, rfl⟩ | ⟨_, rfl⟩
  · obtain ⟨hn, hlen⟩ := hs.clear_and_whole (inSession_of_phase hp (by decide))
    obtain ⟨_, hlk, _⟩ := hs.absorb hp
    exact NoFault.inv hn (by simp) ⟨toNat_fill_succ_lt hf, hlk, rfl⟩ hlen
  · obtain ⟨hn, hlen⟩ := hs.clear_and_whole (inSession_of_phase hp (by decide))
    obtain ⟨_, hlk, _⟩ := hs.absorb hp
    exact NoFault.inv_storeByte_full markerByte hn hf (.inl hlk) hlen
  · exact inv_protocolFault ..
  · exact hs

/-- PADZ. -/
theorem Inv.after_padz {s t : State} (hs : Inv s) (h : exec .padz s = .next t) : Inv t := by
  obtain ⟨hp, _, ht⟩ := exec_padz_next h
  obtain ⟨hn, hlen⟩ := hs.clear_and_whole (inSession_of_phase hp (by decide))
  obtain ⟨_, hlk, hfin⟩ := hs.padz hp
  rcases ht with ⟨hf, rfl⟩ | ⟨hf, rfl⟩
  · exact NoFault.inv hn (by simp) ⟨toNat_fill_succ_lt hf, hlk, hfin⟩ hlen
  · exact hn.inv_storeByte_full fillByte hf (.inl hlk) hlen

/-- PADZEND. -/
theorem Inv.after_padzend {s t : State} (hs : Inv s) (h : exec .padzend s = .next t) : Inv t := by
  obtain ⟨hp, hf, rfl⟩ := exec_padzend_next h
  obtain ⟨hn, hlen⟩ := hs.clear_and_whole (inSession_of_phase hp (by decide))
  obtain ⟨_, hlk, hfin⟩ := hs.padz hp
  exact NoFault.inv hn (by simp) ⟨by simp [hlk], by simp [hf, hlk], hfin⟩ hlen

/-- PADL: lk and fill advance together, and the eighth byte is byte 63 of the block. -/
theorem Inv.after_padl {s t : State} (hs : Inv s) (h : exec .padl s = .next t) : Inv t := by
  obtain ⟨hp, hk, ht⟩ := exec_padl_next h
  obtain ⟨hn, hlen⟩ := hs.clear_and_whole (inSession_of_phase hp (by decide))
  obtain ⟨_, hfill, hfin⟩ := hs.padl hp
  have hlk : (s.lk + 1#4).toNat = s.lk.toNat + 1 := by
    rw [BitVec.toNat_add_of_lt] <;> simp; omega
  rcases ht with ⟨hf, rfl⟩ | ⟨hf, rfl⟩
  · have hnext : (s.fill + 1#7).toNat = s.fill.toNat + 1 := toNat_fill_succ (by omega)
    exact NoFault.inv hn (by simp) ⟨by simp [hlk]; omega, by simp [hnext, hlk]; omega, hfin⟩ hlen
  · have hlast : s.lk + 1#4 = 8#4 := BitVec.eq_of_toNat_eq (by rw [hlk]; simp; omega)
    exact NoFault.inv_storeByte_full _ hn hf (.inr ⟨hlast, hfin⟩) hlen

/-- The four step operations: the step counter goes on to at most 64. -/
theorem Inv.after_step {i : Instr} {idx : BitVec 6} {s t : State} (hi : encode i = .step idx) (hs : Inv s)
    (h : exec i s = .next t) : Inv t := by
  obtain ⟨hp, hidx, w, rfl⟩ := exec_step_next hi h
  obtain ⟨hn, hlen⟩ := hs.clear_and_whole (inSession_of_phase hp (by decide))
  obtain ⟨hfill, _, hlk⟩ := hs.comp hp
  have hcount : (s.i + 1#7).toNat ≤ 64 := by
    have := idx.isLt
    rw [hidx, BitVec.toNat_add, BitVec.toNat_setWidth_of_le (by decide), BitVec.toNat_ofNat]
    omega
  exact NoFault.inv hn (by simp [hp]) (by simp only [CountersInRange, hp]; exact ⟨hfill, hcount, hlk⟩) hlen

/-- FEED. -/
theorem Inv.after_feed {s t : State} (hs : Inv s) (h : exec .feed s = .next t) : Inv t := by
  obtain ⟨hp, hi, ht⟩ := exec_feed_next h
  obtain ⟨hn, hlen⟩ := hs.clear_and_whole (inSession_of_phase hp (by decide))
  obtain ⟨_, _, hlk⟩ := hs.comp hp
  rcases ht with ⟨hk, rfl⟩ | ⟨hk, hfin, rfl⟩ | ⟨hk, hfin, rfl⟩
  · have hfin : s.fin = true := hlk.elim (fun h0 => by simp [h0] at hk) And.right
    exact NoFault.inv hn (by simp) ⟨hi, rfl, hk, hfin, by simp⟩ hlen
  · exact NoFault.inv hn (by simp) ⟨by simp, hlk.resolve_right (hk ·.1), hfin⟩ hlen
  · exact NoFault.inv hn (by simp) ⟨by simp, hlk.resolve_right (hk ·.1), hfin⟩ hlen

/-- POP: oi goes on to at most the last beat's index, and the last beat leaves the session. -/
theorem Inv.after_pop {s t : State} (hs : Inv s) (h : exec .pop s = .next t) : Inv t := by
  rcases exec_pop_next h with ⟨hp, _, rfl⟩ | ⟨_, rfl⟩
  · obtain ⟨hn, hlen⟩ := hs.clear_and_whole (inSession_of_phase hp (by decide))
    obtain ⟨hi, hfill, hlk, hfin, hoi⟩ := hs.out hp
    by_cases hlast : s.oi = lastBeat s.hexm
    · exact NoFault.inv hn (by simp [hlast]) (by simp [CountersInRange, hlast]) hlen
    · have hlt : s.oi.toNat < (lastBeat s.hexm).toNat :=
        lt_of_le_of_ne hoi fun e => hlast (BitVec.eq_of_toNat_eq e)
      have hnext : (s.oi + 1#6).toNat ≤ (lastBeat s.hexm).toNat := by
        rw [BitVec.toNat_add]
        exact (Nat.mod_le _ _).trans hlt
      exact NoFault.inv hn (by simp [hlast])
        (by simp only [CountersInRange, beq_eq_false_iff_ne.mpr hlast]; exact ⟨hi, hfill, hlk, hfin, hnext⟩) hlen
  · exact hs

/-- Every operation that can be selected on its own keeps the invariant. -/
theorem Inv.after_exec {i : Instr} {s t : State} (hw : i.wellFormed = true) (hs : Inv s) (h : exec i s = .next t) :
    Inv t := by
  cases i with
  | init => exact hs.after_init h
  | data => exact hs.after_data h
  | final => exact hs.after_final h
  | padz => exact hs.after_padz h
  | padzend => exact hs.after_padzend h
  | padl => exact hs.after_padl h
  | blkstart => simp [Instr.wellFormed] at hw
  | stepq0 r => exact hs.after_step (i := .stepq0 r) rfl h
  | stepq1 r => exact hs.after_step (i := .stepq1 r) rfl h
  | stepq2 r => exact hs.after_step (i := .stepq2 r) rfl h
  | stepq3 r => exact hs.after_step (i := .stepq3 r) rfl h
  | feed => exact hs.after_feed h
  | pop => exact hs.after_pop h
  | rst => cases h; exact inv_of_idle rfl rfl rfl rfl

/-- Settles O37: the host's move, and then an operation, the acceptance of an illegal word, or a wait. -/
theorem stepKeepsTheInvariant : Obligations.StepKeepsTheInvariant := by
  intro s t hs h
  rcases coreMove_next h with ⟨i, _, hw, h⟩ | ⟨cw, _, rfl⟩ | ⟨_, rfl⟩
  · exact hs.after_hostMove.after_exec hw h
  · exact inv_protocolFault ..
  · exact hs.after_hostMove

end Sys2Proof.Machine
end

section
/-! SUPPORT. The frame and the phase of every operation: which registers it writes (10_state.md R20) and where it leads
(R34). -/

namespace Sys2Proof.Machine

/-- Settles O27, operation by operation: each case of an operation's inversion is an update of `s` that names every
field it writes. -/
theorem registersChangeOnlyByTheirWriters : Obligations.RegistersChangeOnlyByTheirWriters := by
  intro i s t h
  cases i with
  | init hex =>
    rcases exec_init_next h with ⟨_, rfl⟩ | ⟨_, rfl⟩ | ⟨_, rfl⟩ <;> simp [Instr.mnemonic]
  | data d =>
    rcases exec_data_next h with ⟨_, _, rfl⟩ | ⟨_, _, rfl⟩ | ⟨_, rfl⟩ | ⟨_, rfl⟩ <;> simp [Instr.mnemonic]
  | final =>
    rcases exec_final_next h with ⟨_, _, rfl⟩ | ⟨_, _, rfl⟩ | ⟨_, rfl⟩ | ⟨_, rfl⟩ <;> simp [Instr.mnemonic]
  | padz =>
    obtain ⟨_, _, ⟨_, rfl⟩ | ⟨_, rfl⟩⟩ := exec_padz_next h <;> simp [Instr.mnemonic]
  | padzend =>
    obtain ⟨_, _, rfl⟩ := exec_padzend_next h
    simp [Instr.mnemonic]
  | padl =>
    obtain ⟨_, _, ⟨_, rfl⟩ | ⟨_, rfl⟩⟩ := exec_padl_next h <;> simp [Instr.mnemonic]
  | blkstart =>
    cases h
    simp [Instr.mnemonic]
  | stepq0 r | stepq1 r | stepq2 r | stepq3 r =>
    obtain ⟨_, _, _, rfl⟩ := exec_step_next (by rfl) h
    simp [Instr.mnemonic]
  | feed =>
    obtain ⟨_, _, ⟨_, rfl⟩ | ⟨_, _, rfl⟩ | ⟨_, _, rfl⟩⟩ := exec_feed_next h <;> simp [Instr.mnemonic]
  | pop =>
    rcases exec_pop_next h with ⟨_, _, rfl⟩ | ⟨_, rfl⟩ <;> simp [Instr.mnemonic]
  | rst =>
    cases h
    simp [Instr.mnemonic]

/-! ### The table of phase transitions -/

/-- The number 63 in fill, as the value that the meanings compare. -/
theorem fill_eq_last_iff {f : BitVec 7} : f = 63#7 ↔ f.toNat = 63 := by
  rw [← BitVec.toNat_inj]
  rfl

/-- A command word waits where `cmd_ready` is 0, and the table has no row for it there. -/
theorem tablePhase_of_not_ready {i : Instr} {cw : CmdWord} {s : State} (hi : encode i = .cmd cw)
    (hr : cmdReady s = false) : tablePhase i s = s.ph := by
  cases i <;> simp only [encode, reduceCtorEq] at hi <;> cases hp : s.ph <;> simp_all [tablePhase, cmdReady]

/-- A pop request waits where `out_valid` is 0, and the table has no row for it there. -/
theorem tablePhase_of_not_valid {s : State} (ho : outValid s = false) : tablePhase .pop s = s.ph := by
  cases hp : s.ph <;> simp_all [tablePhase, outValid]

/-- The step operations stay in phase COMP. -/
theorem tablePhase_step {i : Instr} {idx : BitVec 6} {s : State} (hi : encode i = .step idx) (hp : s.ph = .comp) :
    tablePhase i s = .comp := by
  cases i <;> simp only [encode, reduceCtorEq] at hi <;> simp [tablePhase, hp]

/-- Settles O28: in each case of an operation's inversion the phase and the condition of one row of the table hold. The
invariant is needed for PADL alone, whose row asks for lk = 7 where the store asks for fill = 63. -/
theorem phasesFollowTheTransitionTable : Obligations.PhasesFollowTheTransitionTable := by
  intro i s t hs h
  cases i with
  | init hex =>
    rcases exec_init_next h with ⟨hp, rfl⟩ | ⟨hp, rfl⟩ | ⟨hr, rfl⟩
    · simp [tablePhase, hp]
    · simp [tablePhase, hp]
    · exact (tablePhase_of_not_ready (by rfl) hr).symm
  | data d =>
    rcases exec_data_next h with ⟨hp, hf, rfl⟩ | ⟨hp, hf, rfl⟩ | ⟨hp, rfl⟩ | ⟨hr, rfl⟩
    · simp [tablePhase, hp, fill_eq_last_iff, hf.ne]
    · simp [tablePhase, hp, fill_eq_last_iff, hf]
    · simp [tablePhase, hp]
    · exact (tablePhase_of_not_ready (by rfl) hr).symm
  | final =>
    rcases exec_final_next h with ⟨hp, hf, rfl⟩ | ⟨hp, hf, rfl⟩ | ⟨hp, rfl⟩ | ⟨hr, rfl⟩
    · simp [tablePhase, hp, fill_eq_last_iff, hf.ne]
    · simp [tablePhase, hp, fill_eq_last_iff, hf]
    · simp [tablePhase, hp]
    · exact (tablePhase_of_not_ready (by rfl) hr).symm
  | padz =>
    obtain ⟨hp, _, ⟨hf, rfl⟩ | ⟨hf, rfl⟩⟩ := exec_padz_next h
    · simp [tablePhase, hp, fill_eq_last_iff, hf.ne]
    · simp [tablePhase, hp, fill_eq_last_iff, hf]
  | padzend =>
    obtain ⟨hp, _, rfl⟩ := exec_padzend_next h
    simp [tablePhase, hp]
  | padl =>
    obtain ⟨hp, _, ht⟩ := exec_padl_next h
    obtain ⟨_, hfill, _⟩ := hs.padl hp
    have hlast : s.lk = 7#4 ↔ s.fill.toNat = 63 := by
      rw [← BitVec.toNat_inj, hfill, BitVec.toNat_ofNat]
      omega
    rcases ht with ⟨hf, rfl⟩ | ⟨hf, rfl⟩
    · simp [tablePhase, hp, hlast, hf.ne]
    · simp [tablePhase, hp, hlast, hf]
  | blkstart =>
    cases h
    simp [tablePhase]
  | stepq0 r | stepq1 r | stepq2 r | stepq3 r =>
    obtain ⟨hp, _, _, rfl⟩ := exec_step_next (by rfl) h
    exact hp.trans (tablePhase_step (by rfl) hp).symm
  | feed =>
    obtain ⟨hp, _, ⟨hk, rfl⟩ | ⟨hk, hfin, rfl⟩ | ⟨hk, hfin, rfl⟩⟩ := exec_feed_next h
    · simp [tablePhase, hp, hk]
    · simp [tablePhase, hp, hk, hfin]
    · simp [tablePhase, hp, hk, hfin]
  | pop =>
    rcases exec_pop_next h with ⟨hp, _, rfl⟩ | ⟨ho, rfl⟩
    · simp [tablePhase, hp]
    · exact (tablePhase_of_not_valid ho).symm
  | rst =>
    cases h
    rfl

end Sys2Proof.Machine
end

section
/-! SUPPORT. The block buffer is what its bytes are, and the operations' next states where they are enabled. -/

namespace Sys2Proof.Machine

/-- A word is what its four lanes are. -/
theorem word_ext_of_byteLane {x y : Word} (h : ∀ k, byteLane x k = byteLane y k) : x = y := by
  apply BitVec.eq_of_getLsbD_eq
  intro j hj
  have hlane := congrArg (BitVec.getLsbD · (j % 8)) (h (BitVec.ofNat 2 (j / 8)))
  have hmod : j / 8 % 4 = j / 8 := Nat.mod_eq_of_lt (by omega)
  have hlt : j % 8 < 8 := Nat.mod_lt _ (by decide)
  simpa [byteLane, hmod, hlt, Nat.div_add_mod] using hlane

/-- The offset of lane `k` of word `j`. -/
theorem offset_append (j : BitVec 4) (k : BitVec 2) :
    (j ++ k).extractLsb' 2 4 = j ∧ (j ++ k).extractLsb' 0 2 = k := by
  revert j k; decide

/-- A block buffer is what its 64 bytes are. -/
theorem block_ext_of_blockByte {m m' : Vector Word 16} (h : ∀ p, blockByte m p = blockByte m' p) : m = m' := by
  apply Vector.ext
  intro j hj
  apply word_ext_of_byteLane
  intro k
  obtain ⟨hword, hlane⟩ := offset_append (BitVec.ofNat 4 j) k
  have hbyte := h (BitVec.ofNat 4 j ++ k)
  simpa [blockByte, blockWord, hword, hlane, Nat.mod_eq_of_lt hj] using hbyte

/-- PADZ where it is enabled. -/
theorem exec_padz_enabled {s : State} (hp : s.ph = .padz) (hf : s.fill ≠ 56#7) :
    exec .padz s = putByte fillByte .padz s := if_pos ⟨hp, hf⟩

/-- PADZEND where it is enabled. -/
theorem exec_padzend_enabled {s : State} (hp : s.ph = .padz) (hf : s.fill = 56#7) :
    exec .padzend s = .next { s with ph := .padl } := if_pos ⟨hp, hf⟩

/-- PADL where it is enabled and LEN has a byte `lk`. -/
theorem exec_padl_enabled {s : State} (hp : s.ph = .padl) (hk : s.lk.toNat < 8) :
    exec .padl s = putByte (lenByte s.len s.lk.toNat) .padl { s with lk := s.lk + 1#4 } :=
  (if_pos hp).trans (if_neg (by omega))

/-- POP in phase OUT of a beat the session has. -/
theorem exec_pop_served {s : State} (hp : s.ph = .out) (ho : s.oi.toNat ≤ (lastBeat s.hexm).toNat) :
    exec .pop s = .next
      { s.takePop with
        beats := s.beats ++ [makeBeat (s.oi == lastBeat s.hexm) (beatData s.h s.hexm s.oi)]
        oi := s.oi + 1#6
        ph := if s.oi == lastBeat s.hexm then .idle else .out } :=
  (if_pos ((outValid_iff s).mpr hp)).trans (if_neg (by omega))

/-- A pop request waits outside phase OUT. -/
theorem exec_pop_waits {s : State} (ho : outValid s = false) : exec .pop s = .next s :=
  if_neg (by simp [ho])

end Sys2Proof.Machine
end

section
/-! SUPPORT. Noninterference of old register contents (10_state.md R38, R41): two states that agree on everything an
operation can still read before writing it agree again after every step, whatever the host does. -/

namespace Sys2Proof.Machine

/-! ### The relation -/

/-- What the host can see or has set is the same (R36, R254), and so is the number of the next RST. -/
def SameVisible (s s' : State) : Prop :=
  s.err = s'.err ∧ s.ecause = s'.ecause ∧ s.einfo = s'.einfo ∧ s.draws = s'.draws ∧ s.ports = s'.ports ∧
    s.script = s'.script ∧ s.beats = s'.beats

/-- The digest state, the counters and the flags of a session are the same, and so are the bytes of the block stored so
far. -/
def SameSession (s s' : State) : Prop :=
  s.h = s'.h ∧ s.fill = s'.fill ∧ s.len = s'.len ∧ s.lk = s'.lk ∧ s.fin = s'.fin ∧ s.hexm = s'.hexm ∧ s.oi = s'.oi ∧
    ∀ p : BitVec 6, p.toNat < s.fill.toNat → blockByte s.m p = blockByte s'.m p

/-- The working variables, the step counter and the whole block are the same. -/
def SameCompression (s s' : State) : Prop := s.w = s'.w ∧ s.i = s'.i ∧ s.m = s'.m

/-- The phase and everything visible are the same, and so is what the phase may still read: the session's registers
between INIT and the last beat, the compression's in phase COMP. -/
structure Agree (s s' : State) : Prop where
  ph : s.ph = s'.ph
  visible : SameVisible s s'
  session : inSession s → SameSession s s'
  compression : s.ph = .comp → SameCompression s s'

/-- A state agrees with itself. -/
theorem Agree.refl (s : State) : Agree s s :=
  ⟨rfl, ⟨rfl, rfl, rfl, rfl, rfl, rfl, rfl⟩, fun _ => ⟨rfl, rfl, rfl, rfl, rfl, rfl, rfl, fun _ _ => rfl⟩,
    fun _ => ⟨rfl, rfl, rfl⟩⟩

/-- Outside a session only the phase and what is visible count. -/
theorem SameVisible.agree {s s' : State} (hv : SameVisible s s') (hph : s.ph = s'.ph)
    (hout : s.ph = .idle ∨ s.ph = .fault) : Agree s s' where
  ph := hph
  visible := hv
  session hin := absurd hout (not_or.mpr hin)
  compression hp := by simp [hp] at hout

/-- In a session, outside phase COMP, the session's registers count too. -/
theorem SameSession.agree {s s' : State} (hs : SameSession s s') (hv : SameVisible s s') (hph : s.ph = s'.ph)
    (hp : s.ph ≠ .comp) : Agree s s' :=
  ⟨hph, hv, fun _ => hs, fun h => absurd h hp⟩

/-- In phase COMP agreement is equality: every register may still be read. -/
theorem Agree.eq_of_comp {s s' : State} (ha : Agree s s') (hp : s.ph = .comp) : s = s' := by
  obtain ⟨herr, hcause, hinfo, hdraws, hports, hscript, hbeats⟩ := ha.visible
  obtain ⟨hh, hfill, hlen, hlk, hfin, hhexm, hoi, _⟩ := ha.session (inSession_of_phase hp (by decide))
  obtain ⟨hw, hi, hm⟩ := ha.compression hp
  have hph := ha.ph
  cases s
  cases s'
  simp_all only

/-- Every host side of the ports keeps the agreement. -/
theorem Agree.with_host {s s' : State} (ha : Agree s s') {p p' : Ports} {acts acts' : List HostAct} (hp : p = p')
    (hacts : acts = acts') : Agree { s with ports := p, script := acts } { s' with ports := p', script := acts' } :=
  have ⟨herr, hcause, hinfo, hdraws, _, _, hbeats⟩ := ha.visible
  ⟨ha.ph, ⟨herr, hcause, hinfo, hdraws, hp, hacts, hbeats⟩, ha.session, ha.compression⟩

/-- The host's requests are the same. -/
theorem Agree.ports {s s' : State} (ha : Agree s s') : s.ports = s'.ports :=
  have ⟨_, _, _, _, hports, _, _⟩ := ha.visible
  hports

/-- The host's script is the same. -/
theorem Agree.script {s s' : State} (ha : Agree s s') : s.script = s'.script :=
  have ⟨_, _, _, _, _, hscript, _⟩ := ha.visible
  hscript

/-- The command word leaves both ports. -/
theorem Agree.after_takeCmd {s s' : State} (ha : Agree s s') : Agree s.takeCmd s'.takeCmd :=
  ha.with_host (by rw [ha.ports]) ha.script

/-- The pop request leaves both ports. -/
theorem Agree.after_takePop {s s' : State} (ha : Agree s s') : Agree s.takePop s'.takePop :=
  ha.with_host (by rw [ha.ports]) ha.script

/-! ### What the sequencer and the host see -/

/-- The sequencer enables the same internal operation. -/
theorem Agree.selectInternal_eq {s s' : State} (ha : Agree s s') : selectInternal s = selectInternal s' := by
  have hph := ha.ph
  cases hp : s.ph
  case padz =>
    obtain ⟨_, hfill, _⟩ := ha.session (inSession_of_phase hp (by decide))
    by_cases hf : s.fill = 56#7
    · rw [selectInternal_padzend hp hf, selectInternal_padzend (hph ▸ hp) (hfill ▸ hf)]
    · rw [selectInternal_padz hp hf, selectInternal_padz (hph ▸ hp) (hfill ▸ hf)]
  case padl => rw [selectInternal_padl hp, selectInternal_padl (hph ▸ hp)]
  case comp => rw [ha.eq_of_comp hp]
  all_goals rw [selectInternal_none (by simp [hp]), selectInternal_none (by simp [← hph, hp])]

/-- The sequencer makes the same choice. -/
theorem Agree.select_eq {s s' : State} (ha : Agree s s') : select s = select s' := by
  unfold select reqVector cmdReady outValid
  rw [ha.selectInternal_eq, ha.ph, ha.ports]

/-- The host can make the same acts. -/
theorem Agree.blocked_eq {s s' : State} (ha : Agree s s') (act : HostAct) : act.blocked s = act.blocked s' := by
  cases act <;> simp [HostAct.blocked, ha.ports, ha.select_eq]

/-- The host makes the same move. -/
theorem Agree.after_hostMove {s s' : State} (ha : Agree s s') : Agree (hostMove s) (hostMove s') := by
  cases hscript : s.script with
  | nil =>
    rw [hostMove_of_script_nil hscript, hostMove_of_script_nil (ha.script ▸ hscript)]
    exact ha
  | cons act rest =>
    have hscript' : s'.script = act :: rest := ha.script ▸ hscript
    cases hb : act.blocked s
    · rw [hostMove_of_free hscript hb, hostMove_of_free hscript' (ha.blocked_eq act ▸ hb)]
      exact ha.with_host (by rw [ha.ports]) rfl
    · rw [hostMove_of_blocked hscript hb, hostMove_of_blocked hscript' (ha.blocked_eq act ▸ hb)]
      exact ha

/-! ### The shared operations -/

/-- Two answers that the host cannot tell apart: where the first is a next state, the second is one that agrees. -/
def AgreeAnswer (r r' : Result) : Prop := ∀ t, r = .next t → ∃ t', r' = .next t' ∧ Agree t t'

/-- Next states that agree. -/
theorem Agree.answer {t t' : State} (ha : Agree t t') : AgreeAnswer (.next t) (.next t') := by
  rintro _ ⟨⟩
  exact ⟨t', rfl, ha⟩

/-- A fault entry shows the same, whatever the registers hold. -/
theorem Agree.after_protocolFault {s s' : State} (ha : Agree s s') (c : Cause) (cw : CmdWord) :
    Agree (protocolFault c cw s) (protocolFault c cw s') :=
  have ⟨_, _, _, hdraws, hports, hscript, hbeats⟩ := ha.visible
  SameVisible.agree ⟨rfl, rfl, rfl, hdraws, hports, hscript, hbeats⟩ rfl (.inr rfl)

/-- The bytes stored so far stay the same when one more is stored. -/
theorem SameSession.after_storeByte {s s' : State} (hs : SameSession s s') (v : Byte) (hf : s.fill.toNat < 64) :
    SameSession (storeByte v s) (storeByte v s') := by
  obtain ⟨hh, hfill, hlen, hlk, hfin, hhexm, hoi, hstored⟩ := hs
  refine ⟨hh, congrArg (· + 1#7) hfill, hlen, hlk, hfin, hhexm, hoi, fun p hp => ?_⟩
  rw [storeByte_fill, toNat_fill_succ hf] at hp
  rw [blockByte_storeByte hf, blockByte_storeByte (hfill ▸ hf), ← hfill]
  split
  · rfl
  · exact hstored p (by omega)

/-- Once 64 bytes are stored the blocks are the same. -/
theorem SameSession.block_eq {s s' : State} (hs : SameSession s s') (hf : s.fill.toNat = 64) : s.m = s'.m := by
  obtain ⟨_, _, _, _, _, _, _, hstored⟩ := hs
  exact block_ext_of_blockByte fun p => hstored p (hf ▸ p.isLt)

/-- PutByte; with byte 63 the whole block is the same, and BLKSTART sets the working variables and the step counter. -/
theorem SameSession.answer_putByte {v : Byte} {np : Phase} {s s' : State} (hs : SameSession s s')
    (hv : SameVisible s s') (hnp : np ≠ .comp) : AgreeAnswer (putByte v np s) (putByte v np s') := by
  intro t ht
  have ⟨hh, hfill, _⟩ := hs
  rcases putByte_next ht with ⟨hf, rfl⟩ | ⟨hf, rfl⟩
  · have hstored := hs.after_storeByte v (by omega)
    exact ⟨_, putByte_room (hfill ▸ hf), SameSession.agree hstored hv rfl hnp⟩
  · have hstored := hs.after_storeByte v (by omega)
    have hm := hstored.block_eq (by rw [storeByte_fill, toNat_fill_succ (by omega), hf])
    exact ⟨_, putByte_full (hfill ▸ hf), rfl, hv, fun _ => hstored, fun _ => ⟨hh, rfl, hm⟩⟩

/-- A command word: its effect, a fault entry or a wait, by the phase alone. -/
theorem Agree.answer_acceptCommand {cw : CmdWord} {allowed : Phase} {effect : State → Result} {s s' : State}
    (ha : Agree s s') (heffect : s.ph = allowed → AgreeAnswer (effect s.takeCmd) (effect s'.takeCmd)) :
    AgreeAnswer (acceptCommand cw allowed effect s) (acceptCommand cw allowed effect s') := by
  unfold acceptCommand cmdReady
  rw [← ha.ph]
  split
  · split
    · next hp => exact heffect hp
    · exact (ha.after_takeCmd.after_protocolFault _ _).answer
  · exact ha.answer

/-! ### The operations -/

/-- INIT sets every register that the session reads. -/
theorem Agree.answer_init {s s' : State} (ha : Agree s s') (hex : Bool) :
    AgreeAnswer (exec (.init hex) s) (exec (.init hex) s') := by
  simp only [exec, execInit]
  refine ha.answer_acceptCommand fun _ => Agree.answer (SameSession.agree ?_ ha.after_takeCmd.visible rfl (by simp))
  exact ⟨rfl, rfl, rfl, rfl, rfl, rfl, rfl, fun p hp => absurd hp (by simp)⟩

/-- DATA. -/
theorem Agree.answer_data {s s' : State} (ha : Agree s s') (d : Byte) :
    AgreeAnswer (exec (.data d) s) (exec (.data d) s') := by
  simp only [exec, execData]
  refine ha.answer_acceptCommand fun hp => ?_
  obtain ⟨hh, hfill, hlen, hrest⟩ := ha.session (inSession_of_phase hp (by decide))
  exact SameSession.answer_putByte ⟨hh, hfill, congrArg (add64 · 8#64) hlen, hrest⟩ ha.after_takeCmd.visible (by decide)

/-- FINAL. -/
theorem Agree.answer_final {s s' : State} (ha : Agree s s') : AgreeAnswer (exec .final s) (exec .final s') := by
  simp only [exec, execFinal]
  refine ha.answer_acceptCommand fun hp => ?_
  obtain ⟨hh, hfill, hlen, hlk, _, hrest⟩ := ha.session (inSession_of_phase hp (by decide))
  exact SameSession.answer_putByte ⟨hh, hfill, hlen, hlk, rfl, hrest⟩ ha.after_takeCmd.visible (by decide)

/-- PADZ. -/
theorem Agree.answer_padz {s s' : State} (ha : Agree s s') : AgreeAnswer (exec .padz s) (exec .padz s') := by
  intro t ht
  obtain ⟨hp, hf, _⟩ := exec_padz_next ht
  have hs := ha.session (inSession_of_phase hp (by decide))
  have ⟨_, hfill, _⟩ := hs
  rw [exec_padz_enabled hp hf] at ht
  rw [exec_padz_enabled (ha.ph ▸ hp) (hfill ▸ hf)]
  exact hs.answer_putByte ha.visible (by decide) t ht

/-- PADZEND. -/
theorem Agree.answer_padzend {s s' : State} (ha : Agree s s') : AgreeAnswer (exec .padzend s) (exec .padzend s') := by
  intro t ht
  obtain ⟨hp, hf, rfl⟩ := exec_padzend_next ht
  have hs := ha.session (inSession_of_phase hp (by decide))
  have ⟨_, hfill, _⟩ := hs
  exact ⟨_, exec_padzend_enabled (ha.ph ▸ hp) (hfill ▸ hf), SameSession.agree hs ha.visible rfl (by simp)⟩

/-- PADL. -/
theorem Agree.answer_padl {s s' : State} (ha : Agree s s') : AgreeAnswer (exec .padl s) (exec .padl s') := by
  intro t ht
  obtain ⟨hp, hk, _⟩ := exec_padl_next ht
  obtain ⟨hh, hfill, hlen, hlk, hrest⟩ := ha.session (inSession_of_phase hp (by decide))
  rw [exec_padl_enabled hp hk] at ht
  have hbyte : lenByte s'.len s'.lk.toNat = lenByte s.len s.lk.toNat := by rw [hlen, hlk]
  have hs : SameSession { s with lk := s.lk + 1#4 } { s' with lk := s'.lk + 1#4 } :=
    ⟨hh, hfill, hlen, congrArg (· + 1#4) hlk, hrest⟩
  rw [exec_padl_enabled (ha.ph ▸ hp) (hlk ▸ hk), hbyte]
  exact hs.answer_putByte ha.visible (by decide) t ht

/-- An operation that is enabled in phase COMP alone: the states are equal there. -/
theorem Agree.answer_of_comp {i : Instr} {s s' : State} (ha : Agree s s')
    (hi : ∀ t, exec i s = .next t → s.ph = .comp) : AgreeAnswer (exec i s) (exec i s') := by
  intro t ht
  rw [← ha.eq_of_comp (hi t ht)]
  exact ⟨t, ht, Agree.refl t⟩

/-- BLKSTART. -/
theorem Agree.answer_blkstart {s s' : State} (ha : Agree s s') : AgreeAnswer (exec .blkstart s) (exec .blkstart s') :=
  Agree.answer ⟨ha.ph, ha.visible, ha.session, fun hp =>
    have ⟨hh, _⟩ := ha.session (inSession_of_phase hp (by decide))
    have ⟨_, _, hm⟩ := ha.compression hp
    ⟨hh, rfl, hm⟩⟩

/-- POP renders the digest state, in the form and at the index of the session. -/
theorem Agree.answer_pop {s s' : State} (ha : Agree s s') : AgreeAnswer (exec .pop s) (exec .pop s') := by
  intro t ht
  rcases exec_pop_next ht with ⟨hp, ho, rfl⟩ | ⟨ho, rfl⟩
  · obtain ⟨hh, hfill, hlen, hlk, hfin, hhexm, hoi, hstored⟩ := ha.session (inSession_of_phase hp (by decide))
    obtain ⟨herr, hcause, hinfo, hdraws, hports, hscript, hbeats⟩ := ha.after_takePop.visible
    have hserved := exec_pop_served (s := s') (ha.ph ▸ hp) (by rw [← hoi, ← hhexm]; exact ho)
    rw [← hh, ← hhexm, ← hoi] at hserved
    refine ⟨_, hserved, SameSession.agree ⟨hh, hfill, hlen, hlk, hfin, hhexm, rfl, hstored⟩
      ⟨herr, hcause, hinfo, hdraws, hports, hscript, congrArg (· ++ _) hbeats⟩ rfl ?_⟩
    dsimp only
    split <;> simp
  · exact ⟨s', exec_pop_waits (by rw [outValid, ← ha.ph]; exact ho), ha⟩

/-- RST draws the same free values. -/
theorem Agree.answer_rst {s s' : State} (ha : Agree s s') : AgreeAnswer (exec .rst s) (exec .rst s') :=
  have ⟨_, _, _, hdraws, hports, hscript, hbeats⟩ := ha.visible
  Agree.answer <| SameVisible.agree
    ⟨rfl, rfl, rfl, congrArg (· + 1) hdraws, congrArg (fun p => { p with rst := false }) hports, hscript, hbeats⟩ rfl
    (.inl rfl)

/-- No operation tells apart states that agree. -/
theorem Agree.answer_exec {s s' : State} (ha : Agree s s') (i : Instr) : AgreeAnswer (exec i s) (exec i s') := by
  cases i with
  | init hex => exact ha.answer_init hex
  | data d => exact ha.answer_data d
  | final => exact ha.answer_final
  | padz => exact ha.answer_padz
  | padzend => exact ha.answer_padzend
  | padl => exact ha.answer_padl
  | blkstart => exact ha.answer_blkstart
  | stepq0 r | stepq1 r | stepq2 r | stepq3 r =>
    exact ha.answer_of_comp fun _ ht => (exec_step_next (by rfl) ht).1
  | feed => exact ha.answer_of_comp fun _ ht => (exec_feed_next ht).1
  | pop => exact ha.answer_pop
  | rst => exact ha.answer_rst

/-! ### Steps and runs -/

/-- No step of CORE tells apart states that agree. -/
theorem Agree.answer_coreMove {s s' : State} (ha : Agree s s') : AgreeAnswer (coreMove s) (coreMove s') := by
  cases hsel : select s with
  | perform i =>
    rw [coreMove_of_perform hsel, coreMove_of_perform (ha.select_eq ▸ hsel)]
    exact ha.answer_exec i
  | illegal cw =>
    rw [coreMove_of_illegal hsel, coreMove_of_illegal (ha.select_eq ▸ hsel)]
    exact (ha.after_takeCmd.after_protocolFault _ _).answer
  | wait =>
    rw [coreMove_of_wait hsel, coreMove_of_wait (ha.select_eq ▸ hsel)]
    exact ha.answer

/-- A run of at least one step that answers a next state is a step that does, and the rest of the run. -/
theorem coreRun_succ_eq_next_iff {M : Host.Core} {n : Nat} {s t : M.State} :
    M.run (n + 1) s = .next t ↔ ∃ u, M.step s = .next u ∧ M.run n u = .next t := by
  rw [Host.Core.run]
  cases M.step s <;> simp

/-- The same of the machine's own run. -/
theorem run_succ_eq_next_iff {n : Nat} {s t : State} :
    run (n + 1) s = .next t ↔ ∃ u, step s = .next u ∧ run n u = .next t :=
  coreRun_succ_eq_next_iff (M := Sys2Proof.core)

/-- No run tells apart states that agree. -/
theorem Agree.answer_run {n : Nat} {s s' : State} (ha : Agree s s') : AgreeAnswer (run n s) (run n s') := by
  induction n generalizing s s' with
  | zero => exact ha.answer
  | succ n ih =>
    intro t ht
    obtain ⟨u, hu, ht⟩ := run_succ_eq_next_iff.mp ht
    obtain ⟨u', hu', hau⟩ := ha.after_hostMove.answer_coreMove u hu
    obtain ⟨t', ht', hat⟩ := ih hau t ht
    exact ⟨t', run_succ_eq_next_iff.mpr ⟨u', hu', ht'⟩, hat⟩

/-- Settles O44: in phase IDLE what is visible is all that agreement asks. -/
theorem oldRegisterContentsNeverShow : Obligations.OldRegisterContentsNeverShow := by
  intro n s s' t hp hp' herr hcause hinfo hdraws hports hscript hbeats ht
  have hv : SameVisible s s' := ⟨herr, hcause, hinfo, hdraws, hports, hscript, hbeats⟩
  obtain ⟨t', ht', hph, ⟨herr, hcause, hinfo, _, hports, hscript, hbeats⟩, _, _⟩ :=
    (hv.agree (hp.trans hp'.symm) (.inl hp)).answer_run t ht
  exact ⟨t', ht', hbeats.symm, hph.symm, herr.symm, hcause.symm, hinfo.symm, hports.symm, hscript.symm⟩

end Sys2Proof.Machine
end

section
/-! SUPPORT. The memory of CORE: the byte and the word view of the block buffer (20_memory.md R68), the length field in
it (R63), and the instances' separate storage (R79). -/

namespace Sys2Proof.Machine

/-! ### Bytes and words of one storage -/

/-- Four neighbouring bytes, the last least significant, are one 32-bit extract. -/
theorem append_four_bytes {w : Nat} (x : BitVec w) (k : Nat) :
    x.extractLsb' (8 * (k + 3)) 8 ++ x.extractLsb' (8 * (k + 2)) 8 ++ x.extractLsb' (8 * (k + 1)) 8 ++
      x.extractLsb' (8 * k) 8 = x.extractLsb' (8 * k) 32 := by
  rw [BitVec.extractLsb'_append_extractLsb'_eq_extractLsb' (by omega),
    BitVec.extractLsb'_append_extractLsb'_eq_extractLsb' (by omega),
    BitVec.extractLsb'_append_extractLsb'_eq_extractLsb' (by omega)]

/-- A word is its four lanes, lane 0 least significant. -/
theorem append_byteLanes (x : Word) : byteLane x 3 ++ byteLane x 2 ++ byteLane x 1 ++ byteLane x 0 = x :=
  (append_four_bytes x 0).trans BitVec.extractLsb'_eq_self

/-- Lane `k` of word `j` is the byte at offset 4j + k. -/
theorem blockByte_append (m : Vector Word 16) (j : BitVec 4) (k : BitVec 2) :
    blockByte m (j ++ k) = byteLane (blockWord m j) k := by
  obtain ⟨hword, hlane⟩ := offset_append j k
  rw [blockByte, hword, hlane]

/-- A word read gives the word's four bytes, the one at the lowest offset least significant. -/
theorem blockWord_eq_append_blockBytes (m : Vector Word 16) (j : BitVec 4) :
    blockWord m j =
      blockByte m (j ++ 3#2) ++ blockByte m (j ++ 2#2) ++ blockByte m (j ++ 1#2) ++ blockByte m (j ++ 0#2) := by
  simp only [blockByte_append]
  exact (append_byteLanes _).symm

/-- The number of the offset of lane `k` of word `j`. -/
theorem toNat_offset_append (j : BitVec 4) (k : BitVec 2) : (j ++ k).toNat = 4 * j.toNat + k.toNat := by
  revert j k; decide

/-- The number of the word that offset `p` lies in. -/
theorem toNat_offset_word (p : BitVec 6) : (p.extractLsb' 2 4).toNat = p.toNat / 4 := by revert p; decide

/-- The lane of offset `p` in its word. -/
theorem toNat_offset_lane (p : BitVec 6) : (p.extractLsb' 0 2).toNat = p.toNat % 4 := by revert p; decide

/-- The byte view by arithmetic on the offset. -/
theorem blockByte_eq_extract (m : Vector Word 16) (p : BitVec 6) :
    blockByte m p = (m.toList.getD (p.toNat / 4) 0).extractLsb' (8 * (p.toNat % 4)) 8 := by
  have hlt : p.toNat / 4 < 16 := by omega
  simp only [blockByte, byteLane, blockWord, toNat_offset_word, toNat_offset_lane]
  simp [hlt]

/-- Settles O6: the arithmetic of the offset, the read after a store, and the word's four lanes. -/
theorem blockBufferByteAndWordViewsAgree : Obligations.BlockBufferByteAndWordViewsAgree := by
  refine ⟨blockByte_eq_extract, ?_, blockWord_eq_append_blockBytes⟩
  intro m p q v
  split
  · next h => rw [h, blockByte_storeBlockByte_same]
  · next h => exact blockByte_storeBlockByte_other m v h

/-! ### The length field -/

/-- Bytes 0 to `n - 1` of LEN stand in the block buffer from offset 56 on. -/
def LengthBytes (m : Vector Word 16) (len : BitVec 64) (n : Nat) : Prop :=
  ∀ k < n, k < 8 → blockByte m (BitVec.ofNat 6 (56 + k)) = lenByte len k

/-- The stored length field asks for lk bytes of LEN, in the phases PADL, COMP and OUT. -/
theorem lengthFieldStored_iff {s : State} :
    LengthFieldStored s ↔ s.ph = .padl ∨ s.ph = .comp ∨ s.ph = .out → LengthBytes s.m s.len s.lk.toNat := Iff.rfl

/-- Outside PADL, COMP and OUT nothing is asked of the length field. -/
theorem lengthFieldStored_of_outside {s : State} (h : ¬ (s.ph = .padl ∨ s.ph = .comp ∨ s.ph = .out)) :
    LengthFieldStored s := fun hp => absurd hp h

/-- With no length byte stored nothing is asked of the length field. -/
theorem lengthFieldStored_of_lk_zero {s : State} (h : s.lk = 0#4) : LengthFieldStored s := by
  intro _ k hk
  simp [h] at hk

/-- A length byte stored at its offset extends the bytes that stand there by one. -/
theorem LengthBytes.after_storeByte {s : State} (hm : LengthBytes s.m s.len s.lk.toNat) (hk : s.lk.toNat < 8)
    (hf : s.fill.toNat = 56 + s.lk.toNat) :
    LengthBytes (storeByte (lenByte s.len s.lk.toNat) s).m s.len (s.lk.toNat + 1) := by
  intro k hlt hk8
  have hoffset : (BitVec.ofNat 6 (56 + k)).toNat = 56 + k := by
    rw [BitVec.toNat_ofNat]
    omega
  rw [blockByte_storeByte (by omega), hoffset, hf]
  split
  · next h => rw [Nat.add_left_cancel h]
  · next h => exact hm k (by omega) hk8

/-- The fault entry leaves the phases that ask for the length field. -/
theorem lengthFieldStored_protocolFault (c : Cause) (cw : CmdWord) (s : State) :
    LengthFieldStored (protocolFault c cw s) := lengthFieldStored_of_outside (by simp)

/-- The host's move touches none of CORE's registers. -/
theorem LengthFieldStored.after_hostMove {s : State} (hl : LengthFieldStored s) : LengthFieldStored (hostMove s) := by
  rw [hostMove_eq]
  exact hl

/-- PADL stores byte lk of LEN at offset 56 + lk, and lk goes on to count it. -/
theorem LengthFieldStored.after_padl {s t : State} (hs : Inv s) (hl : LengthFieldStored s)
    (h : exec .padl s = .next t) : LengthFieldStored t := by
  obtain ⟨hp, hk, ht⟩ := exec_padl_next h
  obtain ⟨_, hfill, _⟩ := hs.padl hp
  have hnext : (s.lk + 1#4).toNat = s.lk.toNat + 1 := by
    rw [BitVec.toNat_add_of_lt] <;> simp; omega
  have hbytes : LengthBytes (storeByte (lenByte s.len s.lk.toNat) s).m s.len (s.lk + 1#4).toNat := by
    rw [hnext]
    exact (lengthFieldStored_iff.mp hl (.inl hp)).after_storeByte hk hfill
  rcases ht with ⟨_, rfl⟩ | ⟨_, rfl⟩ <;> exact lengthFieldStored_iff.mpr fun _ => hbytes

/-- Every operation that can be selected on its own keeps the stored length field: where it is asked for, the operation
writes no byte and neither LEN nor lk, or no length byte is stored yet, or it is PADL. -/
theorem LengthFieldStored.after_exec {i : Instr} {s t : State} (hw : i.wellFormed = true) (hs : Inv s)
    (hl : LengthFieldStored s) (h : exec i s = .next t) : LengthFieldStored t := by
  cases i with
  | init hex =>
    rcases exec_init_next h with ⟨_, rfl⟩ | ⟨_, rfl⟩ | ⟨_, rfl⟩
    · exact lengthFieldStored_of_outside (by simp)
    · exact lengthFieldStored_protocolFault _ _ _
    · exact hl
  | data d =>
    rcases exec_data_next h with ⟨_, _, rfl⟩ | ⟨hp, _, rfl⟩ | ⟨_, rfl⟩ | ⟨_, rfl⟩
    · exact lengthFieldStored_of_outside (by simp)
    · obtain ⟨_, hlk, _⟩ := hs.absorb hp
      exact lengthFieldStored_of_lk_zero hlk
    · exact lengthFieldStored_protocolFault _ _ _
    · exact hl
  | final =>
    rcases exec_final_next h with ⟨_, _, rfl⟩ | ⟨hp, _, rfl⟩ | ⟨_, rfl⟩ | ⟨_, rfl⟩
    · exact lengthFieldStored_of_outside (by simp)
    · obtain ⟨_, hlk, _⟩ := hs.absorb hp
      exact lengthFieldStored_of_lk_zero hlk
    · exact lengthFieldStored_protocolFault _ _ _
    · exact hl
  | padz =>
    obtain ⟨hp, _, ht⟩ := exec_padz_next h
    obtain ⟨_, hlk, _⟩ := hs.padz hp
    rcases ht with ⟨_, rfl⟩ | ⟨_, rfl⟩ <;> exact lengthFieldStored_of_lk_zero hlk
  | padzend =>
    obtain ⟨hp, _, rfl⟩ := exec_padzend_next h
    obtain ⟨_, hlk, _⟩ := hs.padz hp
    exact lengthFieldStored_of_lk_zero hlk
  | padl => exact hl.after_padl hs h
  | blkstart => simp [Instr.wellFormed] at hw
  | stepq0 r | stepq1 r | stepq2 r | stepq3 r =>
    obtain ⟨_, _, _, rfl⟩ := exec_step_next (by rfl) h
    exact hl
  | feed =>
    obtain ⟨hp, _, ⟨_, rfl⟩ | ⟨_, _, rfl⟩ | ⟨_, _, rfl⟩⟩ := exec_feed_next h
    · exact fun _ => hl (.inr (.inl hp))
    · exact lengthFieldStored_of_outside (by simp)
    · exact lengthFieldStored_of_outside (by simp)
  | pop =>
    rcases exec_pop_next h with ⟨hp, _, rfl⟩ | ⟨_, rfl⟩
    · exact fun _ => hl (.inr (.inr hp))
    · exact hl
  | rst =>
    cases h
    exact lengthFieldStored_of_outside (by simp)

/-- Settles O39: the host's move, and then an operation, the acceptance of an illegal word, or a wait. -/
theorem stepKeepsTheStoredLengthField : Obligations.StepKeepsTheStoredLengthField := by
  intro s t hs hl h
  rcases coreMove_next h with ⟨i, _, hw, h⟩ | ⟨cw, _, rfl⟩ | ⟨_, rfl⟩
  · exact hl.after_hostMove.after_exec hw hs.after_hostMove h
  · exact lengthFieldStored_protocolFault _ _ _
  · exact hl.after_hostMove

/-- A word of the buffer inside the finished length field is the matching 32 bits of LEN. -/
theorem LengthBytes.blockWord_eq {m : Vector Word 16} {len : BitVec 64} (hm : LengthBytes m len 8) {j : BitVec 4}
    {k : Nat} (hj : 4 * j.toNat = 56 + k) (hk : k + 4 ≤ 8) : blockWord m j = len.extractLsb' (8 * k) 32 := by
  have hbyte (r : BitVec 2) : blockByte m (j ++ r) = lenByte len (k + r.toNat) := by
    have hoffset : j ++ r = BitVec.ofNat 6 (56 + (k + r.toNat)) := by
      apply BitVec.eq_of_toNat_eq
      rw [toNat_offset_append, BitVec.toNat_ofNat]
      omega
    rw [hoffset]
    exact hm _ (by omega) (by omega)
  simp only [blockWord_eq_append_blockBytes, hbyte]
  exact append_four_bytes len k

/-- Settles O40: all eight length bytes stand there, and words 14 and 15 hold four of them each. -/
theorem lastBlockHoldsTheLength : Obligations.LastBlockHoldsTheLength := by
  intro s hl hp hk
  have hm : LengthBytes s.m s.len 8 := by simpa [hk] using lengthFieldStored_iff.mp hl (.inr (.inl hp))
  exact ⟨hm.blockWord_eq (k := 0) rfl (by decide), hm.blockWord_eq (k := 4) rfl (by decide)⟩

/-! ### Instances -/

/-- Settles O46: a step modifies its own entry of the list and no other. -/
theorem instancesDoNotInterfere : Obligations.InstancesDoNotInterfere := by
  intro p j k hjk
  unfold Platform.stepAt
  refine ⟨List.modify_modify_ne _ _ p hjk, List.getElem?_modify_ne _ p hjk, ?_, List.length_modify ..⟩
  rw [List.getElem?_modify_eq]
  rfl

end Sys2Proof.Machine
end

section
/-! SUPPORT. The decoders invert the encoder, format by format (30_encoding.md R91 to R95, R100, R105), and the numbers
that command words, round indices and the length field stand for (R95, R98, R100). -/

namespace Sys2Proof.Machine

/-! ### Format CMD -/

/-- A command word is its `op` field followed by its `arg` field (R91). -/
theorem op_append_arg (cw : CmdWord) : cw.extractLsb' 8 2 ++ cw.extractLsb' 0 8 = cw := by
  have h : cw.extractLsb' 8 2 ++ cw.extractLsb' 0 8 = cw.extractLsb' 0 (2 + 8) :=
    BitVec.extractLsb'_append_extractLsb'_eq_extractLsb' rfl
  rw [h]
  exact BitVec.extractLsb'_eq_self

/-- The two arguments of INIT whose reserved bits are 0 (R92). -/
theorem initArg_cases {arg : Byte} (h : arg.extractLsb' 1 7 = 0#7) : arg = 0#8 ∨ arg = 1#8 := by
  have hdiv : arg.toNat / 2 % 2 ^ 7 = 0 := by
    simpa [Nat.shiftRight_eq_div_pow] using congrArg BitVec.toNat h
  rcases (by omega : arg.toNat = 0 ∨ arg.toNat = 1) with h | h
  · exact .inl (BitVec.eq_of_toNat_eq h)
  · exact .inr (BitVec.eq_of_toNat_eq h)

/-- INIT's word, in both forms (R92). -/
theorem decodeCmd_initWord (hex : Bool) : decodeCmd (initWord hex) = .ok (.init hex) := by
  cases hex <;> decide

/-- DATA's word, whatever the byte (R93). -/
theorem decodeCmd_dataWord (d : Byte) : decodeCmd (dataWord d) = .ok (.data d) := by
  have hop : (dataWord d).extractLsb' 8 2 = 1#2 := BitVec.extractLsb'_append_eq_left ..
  have harg : (dataWord d).extractLsb' 0 8 = d := BitVec.extractLsb'_append_eq_right ..
  simp [decodeCmd, hop, harg]

/-- FINAL's word (R94). -/
theorem decodeCmd_finalWord : decodeCmd finalWord = .ok .final := by decide

/-- A command word decodes to an operation exactly where it is its encoding: each branch of the decoder fixes `op`, and
`arg` too except for the operand. -/
theorem decodeCmd_eq_ok_iff {cw : CmdWord} {i : Instr} : decodeCmd cw = .ok i ↔ encode i = .cmd cw := by
  refine ⟨fun h => ?decoded, fun h => ?encoded⟩
  case decoded =>
    have hcw := op_append_arg cw
    unfold decodeCmd at h
    dsimp only at h
    generalize cw.extractLsb' 8 2 = op, cw.extractLsb' 0 8 = arg at hcw h
    subst hcw
    split at h
    · next hop =>
      split at h
      · next harg => cases h; subst hop; rcases initArg_cases harg with rfl | rfl <;> rfl
      · cases h
    · split at h
      · next hop => cases h; rw [hop]; rfl
      · split at h
        · next hop =>
          split at h
          · next harg => cases h; rw [hop, harg]; rfl
          · cases h
        · cases h
  case encoded =>
    cases i <;> cases h
    · exact decodeCmd_initWord _
    · exact decodeCmd_dataWord _
    · exact decodeCmd_finalWord

/-! ### Format STEP -/

/-- A round index is its quadrant followed by its position (R100). -/
theorem quadrant_append_position (x : BitVec 6) : x.extractLsb' 4 2 ++ x.extractLsb' 0 4 = x := by
  revert x; decide

/-- Quadrant 0 selects STEPQ0, with the position as operand. -/
theorem decodeStep_quadrant0 (r : BitVec 4) : decodeStep (0x0#2 ++ r) = .stepq0 r := by revert r; decide

/-- Quadrant 1 selects STEPQ1. -/
theorem decodeStep_quadrant1 (r : BitVec 4) : decodeStep (0x1#2 ++ r) = .stepq1 r := by revert r; decide

/-- Quadrant 2 selects STEPQ2. -/
theorem decodeStep_quadrant2 (r : BitVec 4) : decodeStep (0x2#2 ++ r) = .stepq2 r := by revert r; decide

/-- Quadrant 3 selects STEPQ3. -/
theorem decodeStep_quadrant3 (r : BitVec 4) : decodeStep (0x3#2 ++ r) = .stepq3 r := by revert r; decide

/-- A round index decodes to an operation exactly where it is its encoding; no index is reserved (R100, R107). -/
theorem decodeStep_eq_iff {x : BitVec 6} {i : Instr} : decodeStep x = i ↔ encode i = .step x := by
  refine ⟨?decoded, fun h => ?encoded⟩
  case decoded =>
    rintro rfl
    rw [← quadrant_append_position x]
    generalize x.extractLsb' 4 2 = q, x.extractLsb' 0 4 = r
    rcases lane_cases q with rfl | rfl | rfl | rfl
    · exact congrArg encode (decodeStep_quadrant0 r)
    · exact congrArg encode (decodeStep_quadrant1 r)
    · exact congrArg encode (decodeStep_quadrant2 r)
    · exact congrArg encode (decodeStep_quadrant3 r)
  case encoded =>
    cases i <;> cases h
    · exact decodeStep_quadrant0 _
    · exact decodeStep_quadrant1 _
    · exact decodeStep_quadrant2 _
    · exact decodeStep_quadrant3 _

/-! ### Every format -/

/-- Every operation that can be selected on its own is what its encoding decodes to. -/
theorem decode_encode {i : Instr} (hw : i.wellFormed = true) : decode (encode i) = .ok i := by
  cases i with
  | init hex => exact decodeCmd_initWord hex
  | data d => exact decodeCmd_dataWord d
  | final => exact decodeCmd_finalWord
  | stepq0 r => exact congrArg Decoded.ok (decodeStep_quadrant0 r)
  | stepq1 r => exact congrArg Decoded.ok (decodeStep_quadrant1 r)
  | stepq2 r => exact congrArg Decoded.ok (decodeStep_quadrant2 r)
  | stepq3 r => exact congrArg Decoded.ok (decodeStep_quadrant3 r)
  | padz | padzend | padl | feed | pop | rst => decide
  | blkstart => cases hw

/-- Settles O2: from the encoding, and back from a word of format CMD or STEP. -/
theorem decodingInvertsEncoding : Obligations.DecodingInvertsEncoding :=
  ⟨fun _ => decode_encode, fun _ _ => decodeCmd_eq_ok_iff.mp, fun _ => decodeStep_eq_iff.mp rfl⟩

/-! ### The numbers of the command words and of the round index -/

/-- INIT's word is its `hex` bit (R92). -/
theorem toNat_initWord (hex : Bool) : (initWord hex).toNat = hex.toNat := by cases hex <;> rfl

/-- DATA's word is 0x100 and the byte (R93). -/
theorem toNat_dataWord (d : Byte) : (dataWord d).toNat = 0x100 + d.toNat := by
  rw [dataWord, BitVec.toNat_append, ← Nat.shiftLeft_add_eq_or_of_lt d.isLt]
  rfl

/-- A word with the number of an operation's command word decodes to that operation. -/
theorem decodeCmd_of_toNat {cw word : CmdWord} {i : Instr} (hi : encode i = .cmd word) (h : cw.toNat = word.toNat) :
    decodeCmd cw = .ok i := by
  rw [BitVec.eq_of_toNat_eq h]
  exact decodeCmd_eq_ok_iff.mpr hi

/-- An index with the number of a step operation's index decodes to that operation. -/
theorem decodeStep_of_toNat {x idx : BitVec 6} {i : Instr} (hi : encode i = .step idx) (h : x.toNat = idx.toNat) :
    decodeStep x = i := by
  rw [BitVec.eq_of_toNat_eq h]
  exact decodeStep_eq_iff.mpr hi

/-- A command word that decodes lies in the range of INIT, DATA or FINAL. -/
theorem legal_of_decodeCmd {cw : CmdWord} {i : Instr} (h : decodeCmd cw = .ok i) :
    cw.toNat ≤ 0x001 ∨ (0x100 ≤ cw.toNat ∧ cw.toNat ≤ 0x1FF) ∨ cw.toNat = 0x200 := by
  cases i <;> cases decodeCmd_eq_ok_iff.mp h
  case init hex => exact .inl (toNat_initWord hex ▸ hex.toNat_le)
  case data d => rw [toNat_dataWord]; omega
  case final => exact .inr (.inr rfl)

/-- Settles O1: a word in a legal range has the number of that class's word, and one outside all of them decodes to
none. -/
theorem everyCommandWordDecodesToOneClass : Obligations.EveryCommandWordDecodesToOneClass := by
  intro cw
  refine ⟨fun h => decodeCmd_of_toNat rfl ?init, fun ⟨hlow, hhigh⟩ => decodeCmd_of_toNat rfl ?data,
    fun h => decodeCmd_of_toNat rfl h, fun h => ?illegal⟩
  case init =>
    rw [toNat_initWord]
    rcases (by omega : cw.toNat = 0 ∨ cw.toNat = 1) with h | h <;> rw [h] <;> rfl
  case data =>
    rw [toNat_dataWord, BitVec.toNat_ofNat]
    omega
  case illegal =>
    cases hd : decodeCmd cw with
    | ok i => have := legal_of_decodeCmd hd; omega
    | rejected why => exact ⟨why, rfl⟩

/-- Settles O4: the quadrant and the position have the index's number, and an odd factor keeps the positions apart
modulo 16. -/
theorem roundIndexSelectsStepAndWord : Obligations.RoundIndexSelectsStepAndWord := by
  refine ⟨fun i => ⟨fun h => ⟨decodeStep_of_toNat rfl ?q0, (BitVec.toNat_ofNat ..).trans (Nat.mod_eq_of_lt h)⟩,
    fun h => ⟨decodeStep_of_toNat rfl ?q1, BitVec.toNat_ofNat ..⟩,
    fun h => ⟨decodeStep_of_toNat rfl ?q2, BitVec.toNat_ofNat ..⟩,
    fun h => ⟨decodeStep_of_toNat rfl ?q3, BitVec.toNat_ofNat ..⟩⟩, fun r r' => ?injective⟩
  case q0 => rw [toNat_quadrant0, BitVec.toNat_ofNat]; omega
  case q1 => rw [toNat_quadrant1, BitVec.toNat_ofNat]; omega
  case q2 => rw [toNat_quadrant2, BitVec.toNat_ofNat]; omega
  case q3 => rw [toNat_quadrant3, BitVec.toNat_ofNat]; omega
  case injective =>
    refine ⟨fun h => ?_, fun h => ?_, fun h => ?_, fun h => ?_⟩ <;>
      · have hmod := congrArg BitVec.toNat h
        simp only [indexQ0, indexQ1, indexQ2, indexQ3, toNat_quadrant0, toNat_quadrant1, toNat_quadrant2,
          toNat_quadrant3, BitVec.toNat_ofNat] at hmod
        exact BitVec.eq_of_toNat_eq (by omega)

/-- Settles O10: byte `k` of the count is the extract of the field's definition, and 8 divides the count. -/
theorem lengthFieldIsTheBitCount : Obligations.LengthFieldIsTheBitCount := by
  intro len
  refine ⟨by simp [lengthField], fun k hk => ?byte, ?low⟩
  case byte =>
    have hget : (lengthField len).getD k 0 = (BitVec.ofNat 64 (8 * len)).extractLsb' (8 * k) 8 := by
      simp [lengthField, hk]
    rw [hget, BitVec.extractLsb'_toNat, BitVec.toNat_ofNat, Nat.shiftRight_eq_div_pow]
  case low =>
    apply BitVec.eq_of_toNat_eq
    rw [BitVec.extractLsb'_toNat, BitVec.toNat_ofNat]
    change 8 * len % 2 ^ 64 % 2 ^ 3 = 0
    omega

end Sys2Proof.Machine
end

section
/-! SUPPORT. Placing the operation of a table row (log entries 4 and 5) and the program line `rst` (R108, log
entry 12): what the sequencer chooses in the state that the host has made. -/

namespace Sys2Proof.Machine

/-! ### Reading a table word -/

/-- A decoding has an instruction exactly where it succeeds. -/
theorem instr?_eq_some_iff {d : Decoded} {i : Instr} : d.instr? = some i ↔ d = .ok i := by
  cases d <;> simp [Decoded.instr?]

/-- A word of one byte gives an operation that can be selected on its own, and never a host command. -/
theorem decodeTableByte_some {w : Nat} {i : Instr} (h : decodeTableByte w = some i) :
    i.wellFormed = true ∧ ∀ cw, encode i ≠ .cmd cw := by
  unfold decodeTableByte at h
  split at h
  · cases h
  · split at h
    · rcases decodeReq_ok (instr?_eq_some_iff.mp h) with rfl | rfl <;> simp [Instr.wellFormed, encode]
    · split at h
      · next hsel =>
        cases h
        rcases decodeSel_ok hsel with rfl | rfl | rfl | rfl <;> simp [Instr.wellFormed, encode]
      · obtain ⟨r, hr⟩ := decodeStep_cases (BitVec.ofNat 6 w)
        cases h
        rcases hr with hr | hr | hr | hr <;> simp [hr, Instr.wellFormed, encode]

/-- The requests by which an operation is asked for: its command word, its request, or none where the state alone
selects it (R105). -/
def requestPorts (i : Instr) : Ports :=
  match encode i with
  | .cmd cw => ⟨some cw, false, false⟩
  | .req x => ⟨none, x.getLsbD 0, x.getLsbD 1⟩
  | .sel _ => Ports.none
  | .step _ => Ports.none

/-- A table word that decodes gives an operation that can be selected on its own, and its requests are placed. -/
theorem decodeTableWord_some {nbits w : Nat} {i : Instr} (h : decodeTableWord nbits w = some i) :
    i.wellFormed = true ∧ placePorts nbits w = requestPorts i := by
  unfold decodeTableWord at h
  unfold placePorts
  split at h
  · next hn =>
    split at h
    · next hw =>
      have hd := instr?_eq_some_iff.mp h
      exact ⟨decodeCmd_wellFormed hd, by simp [requestPorts, decodeCmd_eq_ok_iff.mp hd, hn, hw]⟩
    · cases h
  · next hn =>
    obtain ⟨hwf, hcmd⟩ := decodeTableByte_some h
    refine ⟨hwf, ?_⟩
    rw [if_neg hn, h]
    cases i with
    | init | data | final => exact absurd rfl (hcmd _)
    | padz | padzend | padl | blkstart | stepq0 | stepq1 | stepq2 | stepq3 | feed | pop | rst => rfl

/-! ### A placed operation -/

/-- Placing an operation writes the phase and the counters of its condition at most. -/
theorem placeOperation_eq (i : Instr) (s : State) :
    placeOperation i s = { s with
      ph := (placeOperation i s).ph
      i := (placeOperation i s).i
      fill := (placeOperation i s).fill
      lk := (placeOperation i s).lk
      oi := (placeOperation i s).oi } := by
  cases i <;> rfl

/-- PADZ is placed where the zero fill has not reached the length field. -/
theorem placeOperation_padz_fill (s : State) : (placeOperation .padz s).fill ≠ 56#7 := by
  change (if _ then s.fill else 0#7) ≠ 56#7
  split
  · next h => exact h.2
  · decide

/-- A placed step operation is enabled by the round index it stands for. -/
theorem selectInternal_placeStep {i : Instr} {idx : BitVec 6} (hi : encode i = .step idx) (s : State) :
    selectInternal (placeOperation i s) = some i := by
  have hplace : placeOperation i s = { s with ph := .comp, i := idx.setWidth 7 } := by
    cases i <;> cases hi <;> rfl
  have hidx : (idx.setWidth 7).toNat = idx.toNat := BitVec.toNat_setWidth_of_le (by decide)
  rw [hplace, selectInternal_step rfl (hidx ▸ idx.isLt), hidx, BitVec.ofNat_toNat]
  exact congrArg some (decodeStep_eq_iff.mpr hi)

/-- The sequencer performs a placed operation, with its own requests at the ports. -/
theorem select_placeOperation {i : Instr} {s : State} (hw : i.wellFormed = true) (hp : s.ports = requestPorts i) :
    select (placeOperation i s) = .perform i := by
  have hrst : s.ports.rst = (requestPorts i).rst := congrArg Ports.rst hp
  cases i with
  | init hex => exact select_of_command hrst rfl (congrArg Ports.cmd hp) (decodeCmd_initWord hex)
  | data d => exact select_of_command hrst rfl (congrArg Ports.cmd hp) (decodeCmd_dataWord d)
  | final => exact select_of_command hrst rfl (congrArg Ports.cmd hp) decodeCmd_finalWord
  | padz => exact select_of_internal hrst (selectInternal_padz rfl (placeOperation_padz_fill s))
  | padzend => exact select_of_internal hrst (selectInternal_padzend rfl rfl)
  | padl => exact select_of_internal hrst (selectInternal_padl rfl)
  | stepq0 | stepq1 | stepq2 | stepq3 => exact select_of_internal hrst (selectInternal_placeStep rfl s)
  | feed => exact select_of_internal hrst (selectInternal_feed rfl rfl)
  | pop => exact select_of_pop hrst rfl (congrArg Ports.pop hp)
  | rst => exact select_of_rst hrst
  | blkstart => cases hw

/-- A script held for one step: the host's next move changes no port. -/
theorem hostMove_of_held {s : State} {acts : List HostAct} (h : s.script = holdScript acts) :
    hostMove s = { s with script := acts } := by
  cases acts with
  | nil => exact (hostMove_of_script_nil h).trans (congrArg (fun acts => { s with script := acts }) h)
  | cons act rest => exact hostMove_of_free h rfl

/-- A table word that decodes places its operation and requests, and holds the script. -/
theorem withFetchWord_of_decode {s : State} {nbits w : Nat} {i : Instr} (h : decodeTableWord nbits w = some i) :
    s.withFetchWord nbits w =
      placeOperation i { s with ports := requestPorts i, script := holdScript s.script } := by
  rw [← (decodeTableWord_some h).2, State.withFetchWord, placeWord, h]

/-- Settles O31: the placed operation is selected, the host's move touches the script alone, and placing writes no data
register. -/
theorem placedWordRunsInTheNextStep : Obligations.PlacedWordRunsInTheNextStep := by
  intro s nbits w i h
  rw [withFetchWord_of_decode h]
  have hsel := select_placeOperation (s := { s with ports := requestPorts i, script := holdScript s.script })
    (decodeTableWord_some h).1 rfl
  rw [placeOperation_eq] at hsel ⊢
  refine ⟨coreMove_of_perform ?step, fun hs => hostMove_of_script_nil ?script, rfl, rfl, rfl, rfl, rfl, rfl, rfl, rfl,
    rfl, rfl⟩
  case step =>
    rw [hostMove_of_held rfl]
    exact hsel
  case script => exact congrArg holdScript hs

/-! ### The program line `rst` -/

/-- With the invariant an internal operation is enabled exactly where CORE is busy (R33). -/
theorem Inv.selectInternal_eq_none_iff {s : State} (hs : Inv s) : selectInternal s = none ↔ busy s = false := by
  rw [← Bool.not_eq_true, busy_iff]
  cases hp : s.ph with
  | idle | absorb | out | fault => simp [selectInternal_none, hp]
  | padz =>
    by_cases hf : s.fill = 56#7
    · simp [selectInternal_padzend hp hf]
    · simp [selectInternal_padz hp hf]
  | padl => simp [selectInternal_padl hp]
  | comp =>
    rcases (hs.comp hp).2.1.lt_or_eq with hi | hi
    · simp [selectInternal_step hp hi]
    · simp [selectInternal_feed hp (BitVec.eq_of_toNat_eq hi)]

/-- The act `settle` is made where CORE waits, and CORE then waits. -/
theorem step_of_settle {s : State} {rest : List HostAct} (h : s.script = HostAct.settle :: rest)
    (hw : select s = .wait) : step s = .next { s with script := rest } := by
  have hmove : hostMove s = { s with script := rest } := hostMove_of_free h (by simp [HostAct.blocked, hw])
  rw [step, hmove]
  exact coreMove_of_wait hw

/-- A waiting CORE still waits when the host has withdrawn its requests. -/
theorem step_of_withdrawAll {s : State} {rest : List HostAct} (h : s.script = HostAct.withdrawAll :: rest)
    (hw : select s = .wait) : step s = .next { s with ports := Ports.none, script := rest } := by
  obtain ⟨hr, hi, -, -⟩ := select_eq_wait_iff.mp hw
  have hports : HostAct.withdrawAll.apply s.ports = Ports.none := by
    simp [HostAct.withdrawAll, HostAct.apply, Ports.none, hr]
  rw [step, hostMove_of_free h rfl, hports]
  exact coreMove_of_wait (select_eq_wait_iff.mpr ⟨rfl, hi, fun _ => rfl, fun _ => rfl⟩)

/-- A reset applied where no request is made is performed at once. -/
theorem step_of_reset {s : State} {rest : List HostAct} (h : s.script = HostAct.reset :: rest)
    (hp : s.ports = Ports.none) :
    step s = exec .rst { s with ports := ⟨none, false, true⟩, script := rest } := by
  have hfree : HostAct.reset.blocked s = false := by
    simp [HostAct.reset, HostAct.blocked, hp, Ports.none]
  rw [step, hostMove_of_free h hfree, hp]
  exact coreMove_of_perform (select_of_rst rfl)

/-- The three acts of the line `rst`, from a CORE that waits. -/
theorem run_rstLine_of_wait {s : State} {rest : List HostAct} (h : s.script = ProgramLine.rst.acts ++ rest)
    (hw : select s = .wait) : run 3 s = exec .rst { s with ports := ⟨none, false, true⟩, script := rest } :=
  run_succ_eq_next_iff.mpr ⟨_, step_of_settle h hw,
    run_succ_eq_next_iff.mpr ⟨_, step_of_withdrawAll rfl hw,
      run_succ_eq_next_iff.mpr ⟨_, step_of_reset rfl rfl, rfl⟩⟩⟩

/-- Settles O47: the line can settle exactly where CORE waits, which the three conditions decide. -/
theorem resetLineWaitsForTheLinesBefore : Obligations.ResetLineWaitsForTheLinesBefore := by
  intro s rest hs hr hscript
  have hwait : select s = .wait ↔ busy s = false ∧ (cmdReady s = true → s.ports.cmd = none) ∧
      (outValid s = true → s.ports.pop = false) := by
    simp [select_eq_wait_iff, hr, hs.selectInternal_eq_none_iff]
  refine ⟨fun hbefore => hostMove_of_blocked hscript (decide_eq_true fun hw => ?before),
    fun hb hc ho => run_rstLine_of_wait hscript (hwait.mpr ⟨hb, hc, ho⟩)⟩
  case before =>
    obtain ⟨hb, hc, ho⟩ := hwait.mp hw
    rcases hbefore with hbusy | ⟨hready, hcmd⟩ | ⟨hvalid, hpop⟩
    · simp [hb] at hbusy
    · exact hcmd (hc hready)
    · simp [ho hvalid] at hpop

end Sys2Proof.Machine
end

section
/-! SUPPORT. The host commands (40_host_commands.md R122 to R125): what an accepted command does, how a request waits,
and that an offered command word stays at its port until it is accepted or withdrawn (R254). -/

namespace Sys2Proof.Machine

/-! ### Accepted commands -/

/-- INIT accepted in phase IDLE. -/
theorem exec_init_accepted {hex : Bool} {s : State} (hp : s.ph = .idle) :
    exec (.init hex) s = .next
      { s.takeCmd with
        h := iv, len := 0#64, fill := 0#7, lk := 0#4, fin := false, hexm := hex, oi := 0#6, ph := .absorb } := by
  rw [exec, execInit, acceptCommand_allowed ((cmdReady_iff s).mpr (.inl hp)) hp]

/-- DATA accepted in phase ABSORB. -/
theorem exec_data_accepted {d : Byte} {s : State} (hp : s.ph = .absorb) :
    exec (.data d) s = putByte d .absorb { s.takeCmd with len := add64 s.len 8#64 } := by
  rw [exec, execData, acceptCommand_allowed ((cmdReady_iff s).mpr (.inr hp)) hp]
  rfl

/-- FINAL accepted in phase ABSORB. -/
theorem exec_final_accepted {s : State} (hp : s.ph = .absorb) :
    exec .final s = putByte markerByte .padz { s.takeCmd with fin := true } := by
  rw [exec, execFinal, acceptCommand_allowed ((cmdReady_iff s).mpr (.inr hp)) hp]

/-- The store of a byte leaves LEN alone. -/
theorem StoredByte.len_eq {v : Byte} {np : Phase} {s t : State} (h : StoredByte v np s t) : t.len = s.len := by
  rw [h.2]

/-- Settles O11. -/
theorem initBeginsASession : Obligations.InitBeginsASession := fun _ _ => exec_init_accepted

/-- Settles O12: the acceptance counts 8 bits, and the store of the byte leaves the count alone. -/
theorem dataStoresTheByteAndCounts : Obligations.DataStoresTheByteAndCounts := by
  intro d s hp hf
  obtain ⟨t, hput, hstored⟩ :=
    putByte_stored (v := d) (np := .absorb) (s := { s.takeCmd with len := add64 s.len 8#64 }) hf
  refine ⟨t, (exec_data_accepted hp).trans hput, ?_, ?_⟩
  · rw [hstored.len_eq]
    exact BitVec.toNat_add ..
  · rw [hstored.len_eq]
    exact hstored

/-- Settles O13: the acceptance sets fin, and the marker is stored at offset fill. -/
theorem finalStoresTheMarker : Obligations.FinalStoresTheMarker := by
  intro s hp hf
  rw [exec_final_accepted hp]
  exact putByte_stored (s := { s.takeCmd with fin := true }) hf

/-! ### Requests that wait -/

/-- A legal command waits while CORE is not ready. -/
theorem acceptCommand_waits {cw : CmdWord} {ph : Phase} {effect : State → Result} {s : State}
    (hr : cmdReady s = false) : acceptCommand cw ph effect s = .next s := if_neg (by simp [hr])

/-- Settles O16: the three commands share the wait of their acceptance. -/
theorem requestsWaitWhileNotReady : Obligations.RequestsWaitWhileNotReady := by
  refine fun s => ⟨fun hr => ?_, exec_pop_waits⟩
  simp only [exec, execInit, execData, execFinal, acceptCommand_waits hr, implies_true, and_self]

/-- An operation leaves the command port as it is, or a ready CORE has taken the word off it. -/
theorem exec_command_port {i : Instr} {s t : State} (h : exec i s = .next t) :
    t.ports.cmd = s.ports.cmd ∨ (cmdReady s = true ∧ t.ports.cmd = none) := by
  cases i with
  | init hex =>
    rcases exec_init_next h with ⟨hp, rfl⟩ | ⟨hp, rfl⟩ | ⟨_, rfl⟩
    · exact .inr ⟨(cmdReady_iff s).mpr (.inl hp), rfl⟩
    · exact .inr ⟨(cmdReady_iff s).mpr (.inr hp), rfl⟩
    · exact .inl rfl
  | data d =>
    rcases exec_data_next h with ⟨hp, _, rfl⟩ | ⟨hp, _, rfl⟩ | ⟨hp, rfl⟩ | ⟨_, rfl⟩
    · exact .inr ⟨(cmdReady_iff s).mpr (.inr hp), rfl⟩
    · exact .inr ⟨(cmdReady_iff s).mpr (.inr hp), rfl⟩
    · exact .inr ⟨(cmdReady_iff s).mpr (.inl hp), rfl⟩
    · exact .inl rfl
  | final =>
    rcases exec_final_next h with ⟨hp, _, rfl⟩ | ⟨hp, _, rfl⟩ | ⟨hp, rfl⟩ | ⟨_, rfl⟩
    · exact .inr ⟨(cmdReady_iff s).mpr (.inr hp), rfl⟩
    · exact .inr ⟨(cmdReady_iff s).mpr (.inr hp), rfl⟩
    · exact .inr ⟨(cmdReady_iff s).mpr (.inl hp), rfl⟩
    · exact .inl rfl
  | padz => obtain ⟨_, _, ⟨_, rfl⟩ | ⟨_, rfl⟩⟩ := exec_padz_next h <;> exact .inl rfl
  | padzend =>
    obtain ⟨_, _, rfl⟩ := exec_padzend_next h
    exact .inl rfl
  | padl => obtain ⟨_, _, ⟨_, rfl⟩ | ⟨_, rfl⟩⟩ := exec_padl_next h <;> exact .inl rfl
  | stepq0 r | stepq1 r | stepq2 r | stepq3 r =>
    obtain ⟨_, _, _, rfl⟩ := exec_step_next (by rfl) h
    exact .inl rfl
  | feed => obtain ⟨_, _, ⟨_, rfl⟩ | ⟨_, _, rfl⟩ | ⟨_, _, rfl⟩⟩ := exec_feed_next h <;> exact .inl rfl
  | pop => rcases exec_pop_next h with ⟨_, _, rfl⟩ | ⟨_, rfl⟩ <;> exact .inl rfl
  | blkstart | rst =>
    cases h
    exact .inl rfl

/-- A host that does not withdraw leaves an offered command word at the port: to offer another one it must wait. -/
theorem hostMove_keeps_command {s : State} {cw : CmdWord} (hw : s.ports.cmd = some cw)
    (hno : ∀ (c p : Bool) (rest : List HostAct), s.script ≠ .withdraw c p :: rest) :
    (hostMove s).ports.cmd = some cw := by
  cases hscript : s.script with
  | nil => rw [hostMove_of_script_nil hscript, hw]
  | cons act rest =>
    cases hb : act.blocked s with
    | true => rw [hostMove_of_blocked hscript hb, hw]
    | false =>
      rw [hostMove_of_free hscript hb]
      cases act with
      | request r =>
        have hcmd : r.cmd = none := by
          simp only [HostAct.blocked, hw, Option.isSome_some, Bool.and_true, Bool.or_eq_false_iff] at hb
          simpa using hb.1.1
        simp [HostAct.apply, hcmd, hw]
      | withdraw c p => exact absurd hscript (hno c p rest)
      | idle | settle => exact hw

/-- Settles O34: the host keeps the word, and CORE takes it only where it is ready. -/
theorem offeredWordIsHeldUntilAccepted : Obligations.OfferedWordIsHeldUntilAccepted := by
  intro s t cw h hw hno
  have hmove := hostMove_keeps_command hw hno
  have hready : cmdReady (hostMove s) = cmdReady s := by rw [hostMove_eq]; rfl
  rw [← hmove, ← hready]
  rcases coreMove_next h with ⟨i, _, _, h⟩ | ⟨cw', hsel, rfl⟩ | ⟨_, rfl⟩
  · exact exec_command_port h
  · exact .inr ⟨(select_illegal hsel).2.1, rfl⟩
  · exact .inl rfl

end Sys2Proof.Machine
end

section
/-! SUPPORT. The contract byte by byte: the blocks of a padded message in the byte view of the block buffer
(41_padding_packing.md R142, R143), and the bytes, characters and beats of the renderings (43_serializer.md R190 to
R193). -/

namespace Sys2Proof.Machine

/-! ### The blocks of a byte string -/

/-- Lane `k` of a packed word is byte 4j + k (R142). -/
theorem byteLane_packWord (p : List Byte) (j : Nat) (k : BitVec 2) :
    byteLane (packWord p j) k = p.getD (4 * j + k.toNat) 0 := by
  unfold packWord byteLane
  have h0 := (p.getD (4 * j) 0).isLt
  have h1 := (p.getD (4 * j + 1) 0).isLt
  have h2 := (p.getD (4 * j + 2) 0).isLt
  have h3 := (p.getD (4 * j + 3) 0).isLt
  apply BitVec.eq_of_toNat_eq
  simp only [BitVec.extractLsb'_toNat, BitVec.toNat_add, BitVec.toNat_mul, BitVec.toNat_setWidth, BitVec.toNat_ofNat,
    Nat.shiftRight_eq_div_pow]
  rcases lane_cases k with rfl | rfl | rfl | rfl <;> simp <;> omega

/-- Block `n` of a byte string: its words 16n to 16n + 15 (R143). -/
def blockAt (p : List Byte) (n : Nat) : Vector Word 16 := Vector.ofFn fun j => packWord p (16 * n + j.val)

/-- The byte view of block `n`: bytes 64n to 64n + 63. -/
theorem blockByte_blockAt (p : List Byte) (n : Nat) (q : BitVec 6) :
    blockByte (blockAt p n) q = p.getD (64 * n + q.toNat) 0 := by
  have hword : blockWord (blockAt p n) (q.extractLsb' 2 4) = packWord p (16 * n + q.toNat / 4) := by
    simp only [blockWord, blockAt, Vector.getElem_ofFn, toNat_offset_word]
  rw [blockByte, hword, byteLane_packWord, toNat_offset_lane]
  congr 1
  omega

/-- Bytes after a block do not change it. -/
theorem blockAt_append {p : List Byte} {n : Nat} (h : 64 * n + 64 ≤ p.length) (p' : List Byte) :
    blockAt (p ++ p') n = blockAt p n := by
  apply block_ext_of_blockByte
  intro q
  rw [blockByte_blockAt, blockByte_blockAt, List.getD_append _ _ _ _ (by omega)]

/-- The block sequence of a byte string: its whole blocks in order. Bytes past the last whole block drop out. -/
theorem blocks_pack (p : List Byte) : blocks (pack p) = (List.range (p.length / 64)).map (blockAt p) := by
  have hlength : (pack p).length = p.length / 4 := by simp [pack]
  rw [blocks, hlength, Nat.div_div_eq_div_mul]
  refine List.map_congr_left fun n hn => congrArg Vector.ofFn (funext fun j => ?_)
  have hn : n < p.length / 64 := List.mem_range.mp hn
  have hj : 16 * n + j.val < p.length / 4 := by omega
  simp [pack, hj]

/-- The digest state after the whole blocks of a byte string (R120). -/
def digestOf (p : List Byte) : Quad := (blocks (pack p)).foldl compress iv

/-- A byte that does not fill the block leaves the digest state. -/
theorem digestOf_append_room {p : List Byte} (v : Byte) (h : p.length % 64 ≠ 63) :
    digestOf (p ++ [v]) = digestOf p := by
  have hdiv : (p ++ [v]).length / 64 = p.length / 64 := by
    rw [List.length_append, List.length_singleton]
    omega
  rw [digestOf, digestOf, blocks_pack, blocks_pack, hdiv]
  refine congrArg (List.foldl compress iv) (List.map_congr_left fun n hn => blockAt_append ?_ _)
  have hn : n < p.length / 64 := List.mem_range.mp hn
  omega

/-- The byte that fills the block adds its compression to the digest state. -/
theorem digestOf_append_full {p : List Byte} (v : Byte) (h : p.length % 64 = 63) :
    digestOf (p ++ [v]) = compress (digestOf p) (blockAt (p ++ [v]) (p.length / 64)) := by
  have hdiv : (p ++ [v]).length / 64 = p.length / 64 + 1 := by
    rw [List.length_append, List.length_singleton]
    omega
  have hprev : (List.range (p.length / 64)).map (blockAt (p ++ [v])) =
      (List.range (p.length / 64)).map (blockAt p) := by
    refine List.map_congr_left fun n hn => blockAt_append ?_ _
    have hn : n < p.length / 64 := List.mem_range.mp hn
    omega
  rw [digestOf, digestOf, blocks_pack, blocks_pack, hdiv, List.range_succ, List.map_append, hprev, List.foldl_append]
  rfl

/-! ### The renderings and the beats -/

/-- DIG[n] is entry `n` of the serialised digest (R190). -/
theorem serialize_getElem? (h : Quad) (n : BitVec 4) : (serialize h)[n.toNat]? = some (digestByte h n) := by
  have hsplit : n = n.extractLsb' 2 2 ++ n.extractLsb' 0 2 := by revert n; decide
  generalize n.extractLsb' 2 2 = w, n.extractLsb' 0 2 = k at hsplit
  subst hsplit
  rcases lane_cases w with rfl | rfl | rfl | rfl <;> rcases lane_cases k with rfl | rfl | rfl | rfl <;> rfl

/-- The digit of the high four bits of each byte stands at the byte's even place, that of the low four after it
(R191). -/
theorem hexstr_getElem? (dig : List Byte) (j : Nat) :
    (hexstr dig)[2 * j]? = dig[j]?.map (fun b => hexdigit (b.extractLsb' 4 4)) ∧
      (hexstr dig)[2 * j + 1]? = dig[j]?.map (fun b => hexdigit (b.extractLsb' 0 4)) := by
  induction dig generalizing j with
  | nil => simp [hexstr]
  | cons b dig ih =>
    cases j with
    | zero => exact ⟨rfl, rfl⟩
    | succ j => exact ih j

/-- HEX[n] is entry `n` of the rendering of the serialised digest (R191). -/
theorem hexstr_serialize_getElem? (h : Quad) (n : BitVec 5) :
    (hexstr (serialize h))[n.toNat]? = some (hexChar h n) := by
  have hsplit : n.toNat = 2 * (n.extractLsb' 1 4).toNat + (n.getLsbD 0).toNat := by revert n; decide
  obtain ⟨heven, hodd⟩ := hexstr_getElem? (serialize h) (n.extractLsb' 1 4).toNat
  rw [serialize_getElem?, Option.map_some] at heven hodd
  unfold hexChar
  rw [hsplit]
  cases n.getLsbD 0
  · exact heven
  · exact hodd

/-- The rendering that a session delivers (R190, R191). -/
def rendering (hex : Bool) (h : Quad) : List Byte := if hex then hexstr (serialize h) else serialize h

/-- A rendering has 16 bytes or 32 characters, one more than the index of the last beat. -/
theorem length_rendering (hex : Bool) (h : Quad) : (rendering hex h).length = (lastBeat hex).toNat + 1 := by
  cases hex <;> rfl

/-- The data of a beat is the rendering's entry at the beat's index (R193). -/
theorem rendering_getElem? {hex : Bool} {oi : BitVec 6} (h : Quad) (ho : oi.toNat ≤ (lastBeat hex).toNat) :
    (rendering hex h)[oi.toNat]? = some (beatData h hex oi) := by
  rw [toNat_lastBeat] at ho
  cases hex
  · have hindex : (oi.extractLsb' 0 4).toNat = oi.toNat := by
      simp only [BitVec.extractLsb'_toNat, Nat.shiftRight_zero]
      exact Nat.mod_eq_of_lt (Nat.lt_succ_of_le ho)
    exact hindex ▸ serialize_getElem? h (oi.extractLsb' 0 4)
  · have hindex : (oi.extractLsb' 0 5).toNat = oi.toNat := by
      simp only [BitVec.extractLsb'_toNat, Nat.shiftRight_zero]
      exact Nat.mod_eq_of_lt (Nat.lt_succ_of_le ho)
    exact hindex ▸ hexstr_serialize_getElem? h (oi.extractLsb' 0 5)

/-- The beat that POP returns is the rendering's beat at its index, `last` on the final one only (R193). -/
theorem beatsOf_rendering_getElem? {hex : Bool} {oi : BitVec 6} (h : Quad) (ho : oi.toNat ≤ (lastBeat hex).toNat) :
    (beatsOf (rendering hex h))[oi.toNat]? = some (makeBeat (oi == lastBeat hex) (beatData h hex oi)) := by
  have hlast : (oi.toNat + 1 == (rendering hex h).length) = (oi == lastBeat hex) := by
    rw [length_rendering, Bool.eq_iff_iff, beq_iff_eq, beq_iff_eq, Nat.add_right_cancel_iff, BitVec.toNat_inj]
  rw [beatsOf, List.getElem?_mapIdx, rendering_getElem? h ho, Option.map_some, hlast]

/-- The beats of a session are those of the rendering of the padded message's digest state (R128). -/
theorem sessionBeats_eq (hex : Bool) (msg : List Byte) :
    sessionBeats hex msg = beatsOf (rendering hex (digestOf (pad msg))) := rfl

end Sys2Proof.Machine
end

section
/-! SUPPORT. Runs of CORE while the host goes on with its script, and the compression of a block as one of them
(42_compression.md R160, R161 to R168, R173). -/

namespace Sys2Proof.Machine

/-! ### Runs -/

/-- From `s`, exactly `n` steps lead to a state with `P`. -/
def Reaches (n : Nat) (s : State) (P : State → Prop) : Prop := ∃ t, run n s = .next t ∧ P t

/-- No step is needed for what holds already. -/
theorem Reaches.zero {s : State} {P : State → Prop} (h : P s) : Reaches 0 s P := ⟨s, rfl, h⟩

/-- One step that answers a next state. -/
theorem Reaches.one {s t : State} {P : State → Prop} (h : step s = .next t) (ht : P t) : Reaches 1 s P :=
  ⟨t, run_succ_eq_next_iff.mpr ⟨t, h, rfl⟩, ht⟩

/-- The steps of two runs that follow one another add up. -/
theorem Reaches.trans {m n : Nat} {s : State} {P Q : State → Prop} (h : Reaches m s P)
    (hn : ∀ t, P t → Reaches n t Q) : Reaches (m + n) s Q := by
  obtain ⟨t, hrun, ht⟩ := h
  induction m generalizing s with
  | zero =>
    cases hrun
    rw [Nat.zero_add]
    exact hn _ ht
  | succ m ih =>
    obtain ⟨u, hstep, hrun⟩ := run_succ_eq_next_iff.mp hrun
    obtain ⟨v, hv, hQ⟩ := ih hrun
    exact ⟨v, by rw [Nat.add_right_comm]; exact run_succ_eq_next_iff.mpr ⟨u, hstep, hv⟩, hQ⟩

/-- What the final state has may be weakened. -/
theorem Reaches.imp {n : Nat} {s : State} {P Q : State → Prop} (h : Reaches n s P) (hPQ : ∀ t, P t → Q t) :
    Reaches n s Q := by
  obtain ⟨t, hrun, ht⟩ := h
  exact ⟨t, hrun, hPQ t ht⟩

/-- A condition on the ports and the script that the host's moves keep, and under which they apply no reset. -/
def HostKeeps (Q : Ports → List HostAct → Prop) : Prop :=
  ∀ s : State, Q s.ports s.script → (hostMove s).ports.rst = false ∧ Q (hostMove s).ports (hostMove s).script

/-- An internal operation is enabled by CORE's registers alone. -/
theorem selectInternal_hostMove (s : State) : selectInternal (hostMove s) = selectInternal s := by
  rw [hostMove_eq]
  rfl

/-- While the host applies no reset, a step performs the enabled internal operation with the host's move made. -/
theorem step_of_internal {Q : Ports → List HostAct → Prop} {s : State} {i : Instr} (hQ : HostKeeps Q)
    (hs : Q s.ports s.script) (hi : selectInternal s = some i) :
    ∃ ports script, Q ports script ∧ step s = exec i { s with ports, script } := by
  obtain ⟨hrst, hmove⟩ := hQ s hs
  refine ⟨_, _, hmove, ?_⟩
  rw [← hostMove_eq]
  exact coreMove_of_perform (select_of_internal hrst ((selectInternal_hostMove s).trans hi))

/-! ### The steps of a block -/

/-- A step operation whose function and index are those of round `x` performs that round (R160, R162). -/
theorem runStep_round {x : BitVec 6} {f : Quad → Word} {g : BitVec 6 → BitVec 4} {s : State} (hp : s.ph = .comp)
    (hi : s.i = x.setWidth 7) (hf : f s.w = roundFun x.toNat s.w) (hg : (g x).toNat = roundIndex x.toNat) :
    runStep x f g s = .next { s with w := roundStep s.m s.w x.toNat, i := s.i + 1#7 } := by
  have hword : blockWord s.m (g x) = s.m.toList.getD (roundIndex x.toNat) 0 := by
    have hlt : roundIndex x.toNat < 16 := hg ▸ (g x).isLt
    simp [blockWord, hg, hlt]
  have hquad : stepQuad (f s.w) x (blockWord s.m (g x)) s.w = roundStep s.m s.w x.toNat := by
    rw [hf, hword, roundStep, BitVec.ofNat_toNat, BitVec.setWidth_eq]
    rfl
  rw [runStep, if_pos ⟨hp, hi⟩, hquad]

/-- The same for the operation that `x` decodes to, of which `runStep` is the meaning. -/
theorem exec_decodeStep_of_runStep {x : BitVec 6} {f : Quad → Word} {g : BitVec 6 → BitVec 4} {i : Instr} {s : State}
    (hp : s.ph = .comp) (hi : s.i = x.setWidth 7) (hd : decodeStep x = i)
    (he : ∀ idx, encode i = .step idx → exec i s = runStep idx f g s) (hf : f s.w = roundFun x.toNat s.w)
    (hg : (g x).toNat = roundIndex x.toNat) :
    exec (decodeStep x) s = .next { s with w := roundStep s.m s.w x.toNat, i := s.i + 1#7 } := by
  rw [hd, he x (decodeStep_eq_iff.mp hd)]
  exact runStep_round hp hi hf hg

/-- The step operation of round index `x` performs round `x` of the compression, quadrant by quadrant. -/
theorem exec_decodeStep {x : BitVec 6} {s : State} (hp : s.ph = .comp) (hi : s.i = x.setWidth 7) :
    exec (decodeStep x) s = .next { s with w := roundStep s.m s.w x.toNat, i := s.i + 1#7 } := by
  obtain ⟨h0, h1, h2, h3⟩ := roundIndexSelectsStepAndWord.1 x
  have hx := x.isLt
  rcases (by omega : x.toNat / 16 = 0 ∨ x.toNat / 16 = 1 ∨ x.toNat / 16 = 2 ∨ x.toNat / 16 = 3) with hq | hq | hq | hq
  · obtain ⟨hd, hg⟩ := h0 (by omega)
    exact exec_decodeStep_of_runStep (f := funQ0) (g := indexQ0) hp hi hd (by rintro _ ⟨⟩; rfl)
      (by simp [roundFun, hq, funQ0, not32]) (by simp [roundIndex, hq, hg])
  · obtain ⟨hd, hg⟩ := h1 (by omega)
    exact exec_decodeStep_of_runStep (f := funQ1) (g := indexQ1) hp hi hd (by rintro _ ⟨⟩; rfl)
      (by simp [roundFun, hq, funQ1, not32]) (by simp [roundIndex, hq, hg])
  · obtain ⟨hd, hg⟩ := h2 (by omega)
    exact exec_decodeStep_of_runStep (f := funQ2) (g := indexQ2) hp hi hd (by rintro _ ⟨⟩; rfl)
      (by simp [roundFun, hq, funQ2]) (by simp [roundIndex, hq, hg])
  · obtain ⟨hd, hg⟩ := h3 (by omega)
    exact exec_decodeStep_of_runStep (f := funQ3) (g := indexQ3) hp hi hd (by rintro _ ⟨⟩; rfl)
      (by simp [roundFun, hq, funQ3, not32]) (by simp [roundIndex, hq, hg])

/-- FEED where it is enabled (R168). -/
theorem exec_feed_enabled {s : State} (hp : s.ph = .comp) (hi : s.i = 64#7) :
    exec .feed s = .next
      { s with
        h := addQuad s.h s.w
        fill := 0#7
        oi := if s.lk = 8#4 then 0#6 else s.oi
        ph := if s.lk = 8#4 then .out else if s.fin then .padz else .absorb } := by
  rw [exec, execFeed, if_pos ⟨hp, hi⟩]
  split <;> rfl

/-- `t` is `s` after the first `n` rounds of its block, with the host at `Q`. -/
def RoundsDone (Q : Ports → List HostAct → Prop) (s : State) (n : Nat) (t : State) : Prop :=
  t = { s with
    w := (List.range n).foldl (roundStep s.m) s.w
    i := BitVec.ofNat 7 n
    ports := t.ports
    script := t.script } ∧ Q t.ports t.script

/-- In phase COMP the next step is the next round. -/
theorem RoundsDone.next {Q : Ports → List HostAct → Prop} {s t : State} {n : Nat} (hQ : HostKeeps Q)
    (hp : s.ph = .comp) (hn : n < 64) (ht : RoundsDone Q s n t) : Reaches 1 t (RoundsDone Q s (n + 1)) := by
  obtain ⟨heq, hhost⟩ := ht
  have hpt : t.ph = .comp := by rw [heq]; exact hp
  have hidx : t.i = (BitVec.ofNat 6 n).setWidth 7 := by
    rw [heq]
    apply BitVec.eq_of_toNat_eq
    rw [BitVec.toNat_setWidth_of_le (by decide), BitVec.toNat_ofNat, BitVec.toNat_ofNat]
    omega
  have hi : t.i.toNat = n := by
    rw [hidx, BitVec.toNat_setWidth_of_le (by decide), BitVec.toNat_ofNat, Nat.mod_eq_of_lt hn]
  obtain ⟨ports, script, hhost', hstep⟩ := step_of_internal hQ hhost (selectInternal_step hpt (hi.trans_lt hn))
  rw [hi, exec_decodeStep (s := { t with ports, script }) hpt hidx, BitVec.toNat_ofNat, Nat.mod_eq_of_lt hn] at hstep
  refine .one hstep ⟨?_, hhost'⟩
  rw [heq, List.range_succ, List.foldl_append, BitVec.ofNat_add]
  rfl

/-- The first `n` rounds take `n` steps. -/
theorem reaches_rounds {Q : Ports → List HostAct → Prop} {s : State} (hQ : HostKeeps Q) (hs : Q s.ports s.script)
    (hp : s.ph = .comp) (hi : s.i = 0#7) : ∀ n ≤ 64, Reaches n s (RoundsDone Q s n) := by
  intro n hn
  induction n with
  | zero => exact .zero ⟨by rw [← hi]; rfl, hs⟩
  | succ n ih => exact (ih (by omega)).trans fun t ht => ht.next hQ hp hn

/-- The compression of a block takes 65 steps, 64 rounds and FEED, and leaves the registers it does not name (R173). -/
theorem reaches_compress {Q : Ports → List HostAct → Prop} {s : State} (hQ : HostKeeps Q) (hs : Q s.ports s.script)
    (hp : s.ph = .comp) (hi : s.i = 0#7) (hw : s.w = s.h) :
    Reaches 65 s fun t =>
      t = { s with
        h := compress s.h s.m
        w := t.w
        i := 64#7
        fill := 0#7
        oi := if s.lk = 8#4 then 0#6 else s.oi
        ph := if s.lk = 8#4 then .out else if s.fin then .padz else .absorb
        ports := t.ports
        script := t.script } ∧ Q t.ports t.script := by
  refine Reaches.trans (n := 1) (reaches_rounds hQ hs hp hi 64 le_rfl) fun t ⟨heq, hhost⟩ => ?_
  have hpt : t.ph = .comp := by rw [heq]; exact hp
  have hit : t.i = 64#7 := by rw [heq]
  obtain ⟨ports, script, hhost', hstep⟩ := step_of_internal hQ hhost (selectInternal_feed hpt hit)
  refine .one (hstep.trans (exec_feed_enabled hpt hit)) ⟨?_, hhost'⟩
  rw [heq, hw]
  rfl

end Sys2Proof.Machine
end

section
/-! SUPPORT. The conforming session (40_host_commands.md R122, R128): the host's side as the requests still to be
performed, CORE's side as the bytes of the padded message absorbed so far, and the operations counted (R251). -/

namespace Sys2Proof.Machine

variable {cmds cmds' : List CmdWord} {pops pops' : Nat} {ports : Ports} {script : List HostAct} {s : State}

/-! ### The host of a session -/

/-- The host still has the commands `cmds` and then `pops` pops to get performed, counting those that wait at the
ports, and applies no reset. -/
def Owes (cmds : List CmdWord) (pops : Nat) (ports : Ports) (script : List HostAct) : Prop :=
  ports.rst = false ∧ ∃ (later : List CmdWord) (n : Nat),
    script = later.map HostAct.offer ++ List.replicate n HostAct.popRequest ∧
      ports.cmd.toList ++ later = cmds ∧ ports.pop.toNat + n = pops

/-- The host of a session applies no reset. -/
theorem Owes.no_reset (h : Owes cmds pops ports script) : ports.rst = false := h.1

/-- A host move owes the same requests; the first command, if there is one, is then at its port, and a pop where no
command is left. -/
theorem Owes.after_hostMove (h : Owes cmds pops s.ports s.script) :
    Owes cmds pops (hostMove s).ports (hostMove s).script ∧ (hostMove s).ports.cmd = cmds.head? ∧
      (cmds = [] → 0 < pops → (hostMove s).ports.pop = true) := by
  obtain ⟨hrst, later, n, hscript, rfl, rfl⟩ := h
  cases later with
  | cons cw later =>
    cases hcmd : s.ports.cmd with
    | some first =>
      rw [hostMove_of_blocked hscript (by simp [HostAct.offer, HostAct.blocked, hcmd])]
      exact ⟨⟨hrst, cw :: later, n, hscript, by rw [hcmd], rfl⟩, hcmd, by simp⟩
    | none =>
      rw [hostMove_of_free hscript (by simp [HostAct.offer, HostAct.blocked, hcmd])]
      exact ⟨⟨hrst, later, n, rfl, rfl, rfl⟩, rfl, by simp⟩
  | nil =>
    have hhead : s.ports.cmd = (s.ports.cmd.toList ++ []).head? := by cases s.ports.cmd <;> rfl
    cases n with
    | zero =>
      rw [hostMove_of_script_nil hscript]
      exact ⟨⟨hrst, [], 0, hscript, rfl, rfl⟩, hhead, fun _ hpops => by cases hpop : s.ports.pop <;> simp_all⟩
    | succ n =>
      cases hpop : s.ports.pop with
      | true =>
        rw [hostMove_of_blocked hscript (by simp [HostAct.popRequest, HostAct.blocked, hpop])]
        exact ⟨⟨hrst, [], n + 1, hscript, rfl, by rw [hpop]⟩, hhead, fun _ _ => hpop⟩
      | false =>
        rw [hostMove_of_free hscript (by simp [HostAct.popRequest, HostAct.blocked, hpop])]
        exact ⟨⟨hrst, [], n, rfl, rfl, Nat.add_comm 1 n ▸ (Nat.zero_add _).symm⟩, hhead, fun _ _ => rfl⟩

/-- What the host of a session owes is a condition that its moves keep. -/
theorem hostKeeps_owes (cmds : List CmdWord) (pops : Nat) : HostKeeps (Owes cmds pops) := by
  intro s h
  obtain ⟨hmove, _, _⟩ := h.after_hostMove
  exact ⟨hmove.no_reset, hmove⟩

/-- The word of a session's first command is taken off the port it waits at. -/
theorem Owes.take_command {cw : CmdWord} (h : Owes (cw :: cmds) pops ports script) (hcmd : ports.cmd = some cw) :
    Owes cmds pops { ports with cmd := none } script := by
  obtain ⟨hrst, later, n, hscript, hcmds, hpops⟩ := h
  rw [hcmd] at hcmds
  exact ⟨hrst, later, n, hscript, (List.cons.inj hcmds).2, hpops⟩

/-- A pop is taken off the port it waits at. -/
theorem Owes.take_pop (h : Owes cmds (pops + 1) ports script) (hpop : ports.pop = true) :
    Owes cmds pops { ports with pop := false } script := by
  obtain ⟨hrst, later, n, hscript, hcmds, hpops⟩ := h
  rw [hpop, Bool.toNat_true, Nat.add_comm] at hpops
  exact ⟨hrst, later, n, hscript, hcmds, (Nat.zero_add n).trans (Nat.succ.inj hpops)⟩

/-- A host that owes nothing has no request at a port and nothing left in its script. -/
theorem Owes.nothing_left (h : Owes [] 0 ports script) : ports = Ports.none ∧ script = [] := by
  obtain ⟨hrst, later, n, rfl, hcmds, hpops⟩ := h
  obtain ⟨hcmd, rfl⟩ := List.append_eq_nil_iff.mp hcmds
  obtain ⟨hpop, rfl⟩ := Nat.add_eq_zero_iff.mp hpops
  obtain ⟨cmd, pop, rst⟩ := ports
  simp_all [Ports.none]

/-- The script of a session, before any of it is performed. -/
theorem owes_session (hex : Bool) (msg : List Byte) :
    Owes (initWord hex :: (msg.map dataWord ++ [finalWord])) ((lastBeat hex).toNat + 1) Ports.none
      (session hex msg) := by
  refine ⟨rfl, initWord hex :: (msg.map dataWord ++ [finalWord]), (lastBeat hex).toNat + 1, ?_, rfl, Nat.zero_add _⟩
  cases hex <;> simp [session, toNat_lastBeat, Function.comp_def]

/-- A ready CORE performs the session's first command in the next step. -/
theorem step_of_command {cw : CmdWord} {i : Instr} (hs : Owes (cw :: cmds) pops s.ports s.script)
    (hr : cmdReady s = true) (hd : decodeCmd cw = .ok i) :
    ∃ ports script, Owes cmds pops { ports with cmd := none } script ∧ step s = exec i { s with ports, script } := by
  obtain ⟨hmove, hcmd, _⟩ := hs.after_hostMove
  refine ⟨_, _, hmove.take_command hcmd, ?_⟩
  rw [← hostMove_eq]
  have hr' : cmdReady (hostMove s) = true := by rw [hostMove_eq]; exact hr
  exact coreMove_of_perform (select_of_command hmove.no_reset hr' hcmd hd)

/-- A CORE that serves beats performs the session's next pop in the next step. -/
theorem step_of_pop (hs : Owes [] (pops + 1) s.ports s.script) (ho : outValid s = true) :
    ∃ ports script, Owes [] pops { ports with pop := false } script ∧ step s = exec .pop { s with ports, script } := by
  obtain ⟨hmove, _, hpop⟩ := hs.after_hostMove
  have hpop := hpop rfl (Nat.succ_pos pops)
  refine ⟨_, _, hmove.take_pop hpop, ?_⟩
  rw [← hostMove_eq]
  have ho' : outValid (hostMove s) = true := by rw [hostMove_eq]; exact ho
  exact coreMove_of_perform (select_of_pop hmove.no_reset ho' hpop)

/-! ### The bytes absorbed so far -/

variable {p : List Byte}

/-- CORE has absorbed the bytes `p`: the whole blocks are in the digest state, the others in the block buffer. -/
structure Holds (p : List Byte) (s : State) : Prop where
  /-- A to D. -/
  digest : s.h = digestOf p
  /-- The bytes past the whole blocks are counted. -/
  fill : s.fill.toNat = p.length % 64
  /-- And stored. -/
  bytes : ∀ q : BitVec 6, q.toNat < p.length % 64 → blockByte s.m q = p.getD (64 * (p.length / 64) + q.toNat) 0

/-- The registers that neither a PutByte nor the compression of a block writes, once INIT has cleared oi. -/
structure KeptRegs where
  len : BitVec 64
  lk : BitVec 4
  fin : Bool
  hexm : Bool
  oi : BitVec 6
  err : Bool
  ecause : BitVec 2
  einfo : CmdWord
  beats : List Beat

/-- Those registers of a state. -/
def State.kept (s : State) : KeptRegs := ⟨s.len, s.lk, s.fin, s.hexm, s.oi, s.err, s.ecause, s.einfo, s.beats⟩

/-- A state of a session: its phase, the bytes absorbed, the registers kept meanwhile, and what the host still owes. -/
structure Midway (ph : Phase) (p : List Byte) (r : KeptRegs) (cmds : List CmdWord) (pops : Nat) (s : State) : Prop
    extends Holds p s where
  phase : s.ph = ph
  kept : s.kept = r
  owes : Owes cmds pops s.ports s.script

variable {ph : Phase} {r : KeptRegs}

/-! The kept registers that the operations read. -/

theorem Midway.len_eq (hs : Midway ph p r cmds pops s) : s.len = r.len := congrArg KeptRegs.len hs.kept
theorem Midway.lk_eq (hs : Midway ph p r cmds pops s) : s.lk = r.lk := congrArg KeptRegs.lk hs.kept
theorem Midway.fin_eq (hs : Midway ph p r cmds pops s) : s.fin = r.fin := congrArg KeptRegs.fin hs.kept
theorem Midway.oi_eq (hs : Midway ph p r cmds pops s) : s.oi = r.oi := congrArg KeptRegs.oi hs.kept

/-- The host's moves and requests change nothing of CORE. -/
theorem Midway.with_host (hs : Midway ph p r cmds pops s) (howes : Owes cmds' pops' ports script) :
    Midway ph p r cmds' pops' { s with ports, script } :=
  ⟨⟨hs.digest, hs.fill, hs.bytes⟩, hs.phase, hs.kept, howes⟩

/-- The operations that absorb `k` bytes after the first `n`: one for each byte and 65 for each block they fill. -/
def absorbSteps (n k : Nat) : Nat := k + 65 * ((n + k) / 64 - n / 64)

/-- No operation absorbs no byte. -/
@[simp] theorem absorbSteps_zero (n : Nat) : absorbSteps n 0 = 0 := by simp [absorbSteps]

/-- The operations of two stretches of bytes add up. -/
theorem absorbSteps_add (n j k : Nat) : absorbSteps n (j + k) = absorbSteps n j + absorbSteps (n + j) k := by
  unfold absorbSteps
  omega

/-- The store of a byte puts it after the bytes that were there. -/
theorem Holds.bytes_storeByte (h : Holds p s) (v : Byte) {q : BitVec 6}
    (hq : q.toNat ≤ p.length % 64) :
    blockByte (storeByte v s).m q = (p ++ [v]).getD (64 * (p.length / 64) + q.toNat) 0 := by
  have hfill := h.fill
  rw [blockByte_storeByte (by omega)]
  split
  · next hlast =>
    have hindex : 64 * (p.length / 64) + q.toNat = p.length := by omega
    simp [hindex]
  · next hlast => rw [h.bytes q (by omega), List.getD_append _ _ _ _ (by omega)]

/-- A byte stored with room left in the block is absorbed. -/
theorem Holds.storeByte_room (h : Holds p s) (v : Byte) (hp : p.length % 64 ≠ 63) :
    Holds (p ++ [v]) (storeByte v s) where
  digest := h.digest.trans (digestOf_append_room v hp).symm
  fill := by
    have hfill := h.fill
    rw [storeByte_fill, toNat_fill_succ (by omega), List.length_append, List.length_singleton]
    omega
  bytes q hq := by
    rw [List.length_append, List.length_singleton] at hq ⊢
    rw [h.bytes_storeByte v (by omega)]
    congr 2
    omega

/-- The block buffer after byte 63 is the block of the message. -/
theorem Holds.block_storeByte_full (h : Holds p s) (v : Byte) (hp : p.length % 64 = 63) :
    (storeByte v s).m = blockAt (p ++ [v]) (p.length / 64) := by
  apply block_ext_of_blockByte
  intro q
  rw [blockByte_blockAt, h.bytes_storeByte v (by omega)]

/-- After the byte that fills the block its compression follows, and the block buffer is empty again. -/
theorem Midway.reaches_blockEnd (hs : Midway ph p r cmds pops s) (v : Byte) (hoi : r.oi = 0#6)
    (hp : p.length % 64 = 63) :
    Reaches 65 { blkStart (storeByte v s) with ph := .comp }
      (Midway (if r.lk = 8#4 then .out else if r.fin then .padz else .absorb) (p ++ [v]) r cmds pops) := by
  have hm := hs.block_storeByte_full v hp
  have hlength : (p ++ [v]).length % 64 = 0 := by
    rw [List.length_append, List.length_singleton]
    omega
  have hoi : (if s.lk = 8#4 then 0#6 else s.oi) = s.oi := by
    rw [hs.oi_eq, hoi, ite_self]
  refine (reaches_compress (s := { blkStart (storeByte v s) with ph := .comp }) (hostKeeps_owes cmds pops) hs.owes
    rfl rfl rfl).imp fun t ⟨ht, howes⟩ => ⟨⟨?digest, ?fill, fun q hq => ?bytes⟩, ?phase, ?kept, howes⟩
  case digest =>
    rw [digestOf_append_full v hp, ← hs.digest, ← hm, ht]
    rfl
  case fill =>
    rw [ht, hlength]
    rfl
  case bytes => omega
  case phase =>
    rw [ht, ← hs.lk_eq, ← hs.fin_eq]
    rfl
  case kept =>
    rw [ht]
    exact (congrArg (fun oi => { s.kept with oi }) hoi).trans hs.kept

/-- A PutByte of a session absorbs its byte, with the compression of the block where the byte fills it. -/
theorem Midway.reaches_putByte {v : Byte} {np next : Phase} {u : State} (hu : Midway ph p r cmds pops u)
    (hstep : step s = putByte v np u) (hoi : r.oi = 0#6) (hroom : p.length % 64 ≠ 63 → np = next)
    (hfull : p.length % 64 = 63 → (if r.lk = 8#4 then Phase.out else if r.fin then .padz else .absorb) = next) :
    Reaches (absorbSteps p.length 1) s (Midway next (p ++ [v]) r cmds pops) := by
  have hfill := hu.fill
  by_cases hp : p.length % 64 = 63
  · have hsteps : absorbSteps p.length 1 = 1 + 65 := by unfold absorbSteps; omega
    rw [putByte_full (by omega)] at hstep
    rw [hsteps, ← hfull hp]
    refine (Reaches.one hstep rfl).trans ?_
    rintro _ rfl
    exact hu.reaches_blockEnd v hoi hp
  · have hsteps : absorbSteps p.length 1 = 1 := by unfold absorbSteps; omega
    obtain ⟨hdigest, hfill', hbytes⟩ := hu.storeByte_room v hp
    rw [putByte_room (by omega)] at hstep
    rw [hsteps, ← hroom hp]
    exact .one hstep ⟨⟨hdigest, hfill', hbytes⟩, rfl, hu.kept, hu.owes⟩

/-! ### The phases of a session -/

/-- The DATA commands of a message absorb it and count its bits. -/
theorem Midway.reaches_data {msg : List Byte}
    (hs : Midway .absorb p { r with len := BitVec.ofNat 64 (8 * p.length) } (msg.map dataWord ++ cmds) pops s)
    (hlk : r.lk = 0#4) (hfin : r.fin = false) (hoi : r.oi = 0#6) :
    Reaches (absorbSteps p.length msg.length) s
      (Midway .absorb (p ++ msg) { r with len := BitVec.ofNat 64 (8 * (p ++ msg).length) } cmds pops) := by
  induction msg generalizing p s with
  | nil =>
    rw [List.length_nil, absorbSteps_zero, List.append_nil]
    exact .zero hs
  | cons d msg ih =>
    obtain ⟨ports, script, howes, hstep⟩ :=
      step_of_command hs.owes ((cmdReady_iff s).mpr (.inr hs.phase)) (decodeCmd_dataWord d)
    have hlen : add64 s.len 8#64 = BitVec.ofNat 64 (8 * (p ++ [d]).length) := by
      rw [hs.len_eq, List.length_append, List.length_singleton, Nat.mul_add, BitVec.ofNat_add]
      rfl
    rw [exec_data_accepted (s := { s with ports, script }) hs.phase] at hstep
    have hu : Midway .absorb p { r with len := BitVec.ofNat 64 (8 * (p ++ [d]).length) } (msg.map dataWord ++ cmds)
        pops { ({ s with ports, script } : State).takeCmd with len := add64 s.len 8#64 } :=
      ⟨⟨hs.digest, hs.fill, hs.bytes⟩, hs.phase,
        by rw [← hlen]; exact congrArg (fun regs : KeptRegs => { regs with len := add64 s.len 8#64 }) hs.kept, howes⟩
    have hbyte := hu.reaches_putByte (next := .absorb) hstep hoi (fun _ => rfl) (fun _ => by simp [hlk, hfin])
    rw [List.length_cons, Nat.add_comm, absorbSteps_add, List.append_cons]
    refine hbyte.trans fun t ht => ?_
    have hrest := ih ht
    rwa [List.length_append] at hrest

/-- FINAL absorbs the marker and enters the zero fill. -/
theorem Midway.reaches_final (hs : Midway .absorb p r (finalWord :: cmds) pops s) (hlk : r.lk = 0#4)
    (hoi : r.oi = 0#6) :
    Reaches (absorbSteps p.length 1) s (Midway .padz (p ++ [0x80#8]) { r with fin := true } cmds pops) := by
  obtain ⟨ports, script, howes, hstep⟩ :=
    step_of_command hs.owes ((cmdReady_iff s).mpr (.inr hs.phase)) decodeCmd_finalWord
  rw [exec_final_accepted (s := { s with ports, script }) hs.phase] at hstep
  have hu : Midway .absorb p { r with fin := true } cmds pops
      { ({ s with ports, script } : State).takeCmd with fin := true } :=
    ⟨⟨hs.digest, hs.fill, hs.bytes⟩, hs.phase,
      congrArg (fun regs : KeptRegs => { regs with fin := true }) hs.kept, howes⟩
  exact hu.reaches_putByte hstep hoi (fun _ => rfl) (fun _ => by simp [hlk])

/-- The zero fill up to offset 56 absorbs its zero bytes; before its end fill is not 56. -/
theorem Midway.reaches_zeroFill {n : Nat} (hs : Midway .padz p r cmds pops s) (hlk : r.lk = 0#4)
    (hfin : r.fin = true) (hoi : r.oi = 0#6) (hn : n < 64) (hend : (p.length + n) % 64 = 56) :
    Reaches (absorbSteps p.length n) s (Midway .padz (p ++ List.replicate n 0x00#8) r cmds pops) := by
  induction n generalizing p s with
  | zero =>
    rw [absorbSteps_zero, List.replicate_zero, List.append_nil]
    exact .zero hs
  | succ n ih =>
    have hfill : s.fill ≠ 56#7 := fun h => by
      have h56 := hs.fill
      rw [h] at h56
      change 56 = _ at h56
      omega
    obtain ⟨ports, script, howes, hstep⟩ :=
      step_of_internal (hostKeeps_owes cmds pops) hs.owes (selectInternal_padz hs.phase hfill)
    rw [exec_padz_enabled (s := { s with ports, script }) hs.phase hfill] at hstep
    have hbyte := (hs.with_host howes).reaches_putByte (next := .padz) hstep hoi (fun _ => rfl)
      (fun _ => by simp [hlk, hfin])
    rw [Nat.add_comm, absorbSteps_add, Nat.add_comm 1 n, List.replicate_succ, List.append_cons]
    refine hbyte.trans fun t ht => ?_
    have hrest := ih ht (by omega) (by rw [List.length_append, List.length_singleton]; omega)
    rwa [List.length_append] at hrest

/-- PADZEND absorbs nothing. -/
theorem Midway.reaches_padzend (hs : Midway .padz p r cmds pops s) (hend : p.length % 64 = 56) :
    Reaches 1 s (Midway .padl p r cmds pops) := by
  have hfill : s.fill = 56#7 := BitVec.eq_of_toNat_eq (hs.fill.trans hend)
  obtain ⟨ports, script, howes, hstep⟩ :=
    step_of_internal (hostKeeps_owes cmds pops) hs.owes (selectInternal_padzend hs.phase hfill)
  exact .one (hstep.trans (exec_padzend_enabled hs.phase hfill)) ⟨⟨hs.digest, hs.fill, hs.bytes⟩, rfl, hs.kept, howes⟩

/-- PADL absorbs the bytes of LEN; the eighth ends the last block, and CORE serves beats. -/
theorem Midway.reaches_length (hs : Midway .padl p r cmds pops s) (hlk : r.lk = 0#4) (hoi : r.oi = 0#6)
    (hstart : p.length % 64 = 56) :
    ∀ k ≤ 8, Reaches (absorbSteps p.length k) s
      (Midway (if k = 8 then .out else .padl) (p ++ (List.range k).map (lenByte r.len))
        { r with lk := BitVec.ofNat 4 k } cmds pops) := by
  intro k hk
  induction k with
  | zero =>
    rw [absorbSteps_zero, List.range_zero, List.map_nil, List.append_nil, ← hlk]
    exact .zero hs
  | succ k ih =>
    rw [absorbSteps_add, List.range_succ, List.map_append, List.map_singleton, ← List.append_assoc]
    refine (ih (by omega)).trans fun t ht => ?_
    rw [if_neg (by omega)] at ht
    have hlength : (p ++ (List.range k).map (lenByte r.len)).length = p.length + k := by simp
    have hk8 : t.lk.toNat = k := by
      rw [ht.lk_eq, BitVec.toNat_ofNat, Nat.mod_eq_of_lt (by omega)]
    have hbyte : lenByte t.len t.lk.toNat = lenByte r.len k := by rw [ht.len_eq, hk8]
    obtain ⟨ports, script, howes, hstep⟩ :=
      step_of_internal (hostKeeps_owes cmds pops) ht.owes (selectInternal_padl ht.phase)
    rw [exec_padl_enabled (s := { t with ports, script }) ht.phase (hk8.trans_lt (by omega)), hbyte] at hstep
    have hu : Midway .padl (p ++ (List.range k).map (lenByte r.len)) { r with lk := BitVec.ofNat 4 (k + 1) } cmds
        pops { t with ports, script, lk := t.lk + 1#4 } := by
      refine ⟨⟨ht.digest, ht.fill, ht.bytes⟩, ht.phase, ?_, howes⟩
      rw [ht.lk_eq, BitVec.ofNat_add]
      exact congrArg (fun regs : KeptRegs => { regs with lk := BitVec.ofNat 4 k + 1#4 }) ht.kept
    rw [← hlength]
    refine hu.reaches_putByte hstep hoi (fun h => (if_neg ?_).symm) (fun h => ?_)
    · omega
    · obtain rfl : k = 7 := by omega
      rfl

/-! ### The beats of a session -/

variable {h : Quad}

/-- CORE has served the first `n` beats of the rendering of digest state `h`, and the host will take the others. -/
structure Served (h : Quad) (r : KeptRegs) (n : Nat) (s : State) : Prop where
  phase : s.ph = if n = (lastBeat r.hexm).toNat + 1 then .idle else .out
  digest : s.h = h
  kept : s.kept = { r with oi := BitVec.ofNat 6 n, beats := r.beats ++ (beatsOf (rendering r.hexm h)).take n }
  owes : Owes [] ((lastBeat r.hexm).toNat + 1 - n) s.ports s.script

/-- POP serves the next beat. -/
theorem Served.next {n : Nat} (hs : Served h r n s)
    (hn : n ≤ (lastBeat r.hexm).toNat) : Reaches 1 s (Served h r (n + 1)) := by
  have hp : s.ph = .out := hs.phase.trans (if_neg (by omega))
  have hbound : (lastBeat r.hexm).toNat ≤ 31 := by rw [toNat_lastBeat]; split <;> omega
  have hoi : s.oi = BitVec.ofNat 6 n := congrArg KeptRegs.oi hs.kept
  have hoiNat : s.oi.toNat = n := by rw [hoi, BitVec.toNat_ofNat]; omega
  have hhexm : s.hexm = r.hexm := congrArg KeptRegs.hexm hs.kept
  have hle : s.oi.toNat ≤ (lastBeat s.hexm).toNat := by rwa [hoiNat, hhexm]
  have hpops : (lastBeat r.hexm).toNat + 1 - n = (lastBeat r.hexm).toNat + 1 - (n + 1) + 1 := by omega
  obtain ⟨ports, script, howes, hstep⟩ := step_of_pop (hpops ▸ hs.owes) ((outValid_iff s).mpr hp)
  rw [exec_pop_served (s := { s with ports, script }) hp hle] at hstep
  refine .one hstep ⟨?phase, hs.digest, ?kept, howes⟩
  case phase =>
    have hlast : (s.oi == lastBeat s.hexm) = decide (n + 1 = (lastBeat r.hexm).toNat + 1) := by
      rw [Bool.eq_iff_iff, beq_iff_eq, decide_eq_true_iff, Nat.add_right_cancel_iff, ← BitVec.toNat_inj, hoiNat,
        hhexm]
    simp only [hlast, decide_eq_true_iff]
  case kept =>
    have hbeat : (beatsOf (rendering r.hexm h))[n]? =
        some (makeBeat (s.oi == lastBeat s.hexm) (beatData s.h s.hexm s.oi)) := by
      rw [← hs.digest, ← hhexm, ← hoiNat]
      exact beatsOf_rendering_getElem? s.h hle
    have hbeats : s.beats = r.beats ++ (beatsOf (rendering r.hexm h)).take n := congrArg KeptRegs.beats hs.kept
    rw [List.take_add_one, hbeat, Option.toList_some, ← List.append_assoc, ← hbeats, BitVec.ofNat_add, ← hoi]
    exact congrArg (fun regs : KeptRegs => { regs with
      oi := s.oi + 1#6
      beats := s.beats ++ [makeBeat (s.oi == lastBeat s.hexm) (beatData s.h s.hexm s.oi)] }) hs.kept

/-- The pops of a session take all its beats, and CORE is in phase IDLE again. -/
theorem Served.reaches_end (hs : Served h r 0 s) :
    Reaches ((lastBeat r.hexm).toNat + 1) s (Served h r ((lastBeat r.hexm).toNat + 1)) := by
  have hpops : ∀ n ≤ (lastBeat r.hexm).toNat + 1, Reaches n s (Served h r n) := by
    intro n hn
    induction n with
    | zero => exact .zero hs
    | succ n ih => exact (ih (by omega)).trans fun t ht => ht.next (by omega)
  exact hpops _ le_rfl

/-- CORE that has ended its last block serves the beats of the digest state. -/
theorem Midway.served (hs : Midway .out p r [] ((lastBeat r.hexm).toNat + 1) s) (hoi : r.oi = 0#6) :
    Served (digestOf p) r 0 s where
  phase := hs.phase
  digest := hs.digest
  kept := by
    rw [List.take_zero, List.append_nil, hs.kept]
    exact congrArg (fun oi => { r with oi }) hoi
  owes := hs.owes

/-! ### The whole session -/

/-- INIT begins the session: no byte is absorbed, and the counters are clear. -/
theorem reaches_init {hex : Bool} (hp : s.ph = .idle) (hs : Owes (initWord hex :: cmds) pops s.ports s.script) :
    Reaches 1 s (Midway .absorb []
      { s.kept with len := 0#64, lk := 0#4, fin := false, hexm := hex, oi := 0#6 } cmds pops) := by
  obtain ⟨ports, script, howes, hstep⟩ :=
    step_of_command hs ((cmdReady_iff s).mpr (.inl hp)) (decodeCmd_initWord hex)
  exact .one (hstep.trans (exec_init_accepted hp))
    ⟨⟨rfl, rfl, fun _ hq => absurd hq (Nat.not_lt_zero _)⟩, rfl, rfl, howes⟩

/-- The zero fill ends at offset 56. -/
theorem zeroCount_end (len : Nat) : zeroCount len < 64 ∧ (len + 1 + zeroCount len) % 64 = 56 := by
  unfold zeroCount
  omega

/-- The operations between INIT and the first pop: those of the message, the marker, the zero fill, PADZEND and the
length field. -/
def padSteps (len : Nat) : Nat :=
  absorbSteps 0 len + (absorbSteps len 1 + (absorbSteps (len + 1) (zeroCount len) +
    (1 + absorbSteps (len + 1 + zeroCount len) 8)))

/-- The commands, the zero fill and the length field of a session absorb the padded message. -/
theorem Midway.reaches_pad {msg : List Byte}
    (hs : Midway .absorb [] { r with len := 0#64 } (msg.map dataWord ++ [finalWord]) pops s) (hlk : r.lk = 0#4)
    (hfin : r.fin = false) (hoi : r.oi = 0#6) :
    Reaches (padSteps msg.length) s
      (Midway .out (pad msg) { r with len := BitVec.ofNat 64 (8 * msg.length), lk := 8#4, fin := true } [] pops) := by
  obtain ⟨hzero, hend⟩ := zeroCount_end msg.length
  have hmarked : (msg ++ [0x80#8]).length = msg.length + 1 := List.length_append
  have hfilled : (msg ++ [0x80#8] ++ List.replicate (zeroCount msg.length) 0x00#8).length =
      msg.length + 1 + zeroCount msg.length := by
    rw [List.length_append, hmarked, List.length_replicate]
  rw [← hmarked] at hend
  rw [padSteps, ← hfilled, ← hmarked]
  refine (hs.reaches_data (r := r) hlk hfin hoi).trans fun t ht => ?_
  refine (ht.reaches_final hlk hoi).trans fun t ht => ?_
  refine (ht.reaches_zeroFill hlk rfl hoi hzero hend).trans fun t ht => ?_
  rw [hmarked, ← hfilled] at hend
  refine (ht.reaches_padzend hend).trans fun t ht => ?_
  exact ht.reaches_length hlk hoi hend 8 le_rfl

/-- The operations of a session: INIT, those that absorb the padded message, and the pops (R251). -/
theorem sessionOps_eq (hex : Bool) (len : Nat) :
    sessionOps hex len = 1 + (padSteps len + ((lastBeat hex).toNat + 1)) := by
  have hpops : (if hex then 32 else 16) = (lastBeat hex).toNat + 1 := by cases hex <;> rfl
  rw [sessionOps, hpops]
  unfold padSteps absorbSteps zeroCount blockCount
  omega

/-- After the last beat the host has got all of them, and nothing is left to do. -/
theorem Served.ended (hs : Served h r ((lastBeat r.hexm).toNat + 1) s) :
    s.beats = r.beats ++ beatsOf (rendering r.hexm h) ∧ s.ph = .idle ∧ s.ports = Ports.none ∧ s.script = [] ∧
      s.err = r.err ∧ s.ecause = r.ecause ∧ s.einfo = r.einfo := by
  have hall : (beatsOf (rendering r.hexm h)).take ((lastBeat r.hexm).toNat + 1) = beatsOf (rendering r.hexm h) := by
    rw [← length_rendering r.hexm h]
    exact List.take_of_length_le (by simp [beatsOf])
  have hbeats := congrArg KeptRegs.beats hs.kept
  have howes := hs.owes
  rw [Nat.sub_self] at howes
  obtain ⟨hports, hscript⟩ := howes.nothing_left
  exact ⟨hbeats.trans (congrArg (r.beats ++ ·) hall), hs.phase.trans (if_pos rfl), hports, hscript,
    congrArg KeptRegs.err hs.kept, congrArg KeptRegs.ecause hs.kept, congrArg KeptRegs.einfo hs.kept⟩

/-- Settles O43: INIT, the absorption of the padded message by induction over its bytes, and the pops by induction over
the beats. -/
theorem sessionDeliversTheDigest : Obligations.SessionDeliversTheDigest := by
  intro hex msg s hp hports hscript
  have howes := owes_session hex msg
  rw [← hports, ← hscript] at howes
  rw [sessionOps_eq]
  refine (reaches_init hp howes).trans fun t ht => ?_
  have hpad := ht.reaches_pad (r := { s.kept with lk := 0#4, fin := false, hexm := hex, oi := 0#6 }) rfl rfl rfl
  exact hpad.trans fun t ht => (ht.served rfl).reaches_end.imp fun t ht => ht.ended

end Sys2Proof.Machine
end

section
/-! SUPPORT. Padding and packing (41_padding_packing.md R140 to R147): the shape of the padded message, and the padding
operations as the stores of its bytes. -/

namespace Sys2Proof.Machine

/-! ### The padded message -/

/-- The padding is the marker, the zero bytes and the eight bytes of the length field (R140). -/
theorem length_pad (msg : List Byte) : (pad msg).length = msg.length + zeroCount msg.length + 9 := by
  simp only [pad, lengthField, List.length_append, List.length_singleton, List.length_replicate, List.length_map,
    List.length_range]
  omega

/-- The padded message is the message, the marker and a rest. -/
theorem pad_eq_append_marker (msg : List Byte) :
    pad msg = msg ++ 0x80#8 :: (List.replicate (zeroCount msg.length) 0x00#8 ++ lengthField msg.length) := by
  simp [pad]

/-- Settles O9: the zero fill ends at offset 56 of a block after fewer than 64 bytes, and the length field ends the
block. -/
theorem paddedMessageIsWholeBlocks : Obligations.PaddedMessageIsWholeBlocks := by
  intro msg
  have hlength := length_pad msg
  obtain ⟨hzero, hend⟩ := zeroCount_end msg.length
  refine ⟨by omega, by omega, by omega, hlength, by omega, by omega, by omega, ?message, ?marker⟩
  case message => rw [pad_eq_append_marker, List.take_left]
  case marker => rw [pad_eq_append_marker, List.getElem?_append_right le_rfl, Nat.sub_self, List.getElem?_cons_zero]

/-! ### The padding operations -/

/-- Byte `k` of LEN is the digit of weight `2 ^ (8 * k)`. -/
theorem lenByte_eq_ofNat (len : BitVec 64) (k : Nat) : lenByte len k = BitVec.ofNat 8 (len.toNat / 2 ^ (8 * k)) := by
  rw [← Nat.shiftRight_eq_div_pow]
  rfl

/-- Settles O17: an enabled PADZ is the store of a zero byte. -/
theorem padzAppendsAZeroByte : Obligations.PadzAppendsAZeroByte := by
  intro s hp hend hf
  rw [exec_padz_enabled hp hend]
  exact putByte_stored hf

/-- Settles O18. -/
theorem padzendEntersTheLengthField : Obligations.PadzendEntersTheLengthField := fun _ => exec_padzend_enabled

/-- Settles O19: an enabled PADL advances lk and stores byte lk of LEN. -/
theorem padlStoresTheNextLengthByte : Obligations.PadlStoresTheNextLengthByte := by
  intro s hp hk hf
  rw [exec_padl_enabled hp hk, lenByte_eq_ofNat]
  exact putByte_stored (s := { s with lk := s.lk + 1#4 }) hf

end Sys2Proof.Machine
end

section
/-! SUPPORT. The compression engine (42_compression.md R160 to R168, R173): its operations register by register, and
the compression of a block under a silent host. -/

namespace Sys2Proof.Machine

/-! ### BLKSTART and FEED -/

/-- Settles O20. -/
theorem blkstartCopiesTheDigestState : Obligations.BlkstartCopiesTheDigestState := fun _ => rfl

/-- Settles O22: FEED where it is enabled, with the four additions written out. -/
theorem feedAddsAndChoosesThePhase : Obligations.FeedAddsAndChoosesThePhase := fun _ => exec_feed_enabled

/-! ### The round of a step operation -/

/-- A step operation selected by the step counter performs the round of that index (R162). -/
theorem exec_step_round {i : Instr} {idx : BitVec 6} {s : State} (henc : encode i = .step idx) (hp : s.ph = .comp)
    (hi : s.i.toNat = idx.toNat) :
    exec i s = .next { s with w := roundStep s.m s.w s.i.toNat, i := s.i + 1#7 } := by
  have hidx : s.i = idx.setWidth 7 :=
    BitVec.eq_of_toNat_eq (hi.trans (BitVec.toNat_setWidth_of_le (by decide)).symm)
  rw [← decodeStep_eq_iff.mpr henc, exec_decodeStep hp hidx, hi]

/-- A round with its function `f` and message index `g` named, and the rotation the library's (R162, R167). -/
theorem roundStep_eq {blk : Vector Word 16} {w : Quad} {n : Nat} {f : Word} {g : Nat} (hf : roundFun n w = f)
    (hg : roundIndex n = g) :
    roundStep blk w n =
      ⟨w.d, w.b + (f + w.a + constK (BitVec.ofNat 6 n) + blk.toList.getD g 0).rotateLeft
        (amountS (BitVec.ofNat 6 n)).toNat, w.b, w.c⟩ := by
  rw [roundStep, hf, hg, rotl32_eq_rotateLeft _ (amountS _).isLt]

/-- A step operation in its quadrant, from the quadrant's function and message index. -/
theorem exec_step_eq {i : Instr} {idx : BitVec 6} {s : State} {f : Word} {g : Nat} (henc : encode i = .step idx)
    (hp : s.ph = .comp) (hi : s.i.toNat = idx.toNat) (hf : roundFun s.i.toNat s.w = f)
    (hg : roundIndex s.i.toNat = g) :
    exec i s = .next
      { s with
        w := ⟨s.w.d,
          s.w.b + (f + s.w.a + constK (BitVec.ofNat 6 s.i.toNat) + s.m.toList.getD g 0).rotateLeft
            (amountS (BitVec.ofNat 6 s.i.toNat)).toNat,
          s.w.b, s.w.c⟩
        i := s.i + 1#7 } := by
  rw [exec_step_round henc hp hi, roundStep_eq hf hg]

/-- Settles O21: the quadrant of i decides the function and the message index of its round. -/
theorem stepOperationsPerformTheRound : Obligations.StepOperationsPerformTheRound := by
  intro r s hp
  have hr := r.isLt
  refine ⟨fun hi => ?q0, fun hi => ?q1, fun hi => ?q2, fun hi => ?q3⟩
  case q0 =>
    have hq : s.i.toNat / 16 = 0 := by omega
    exact exec_step_eq rfl hp (by rwa [toNat_quadrant0]) (by simp [roundFun, hq]) (by simp [roundIndex, hq])
  case q1 =>
    have hq : s.i.toNat / 16 = 1 := by omega
    exact exec_step_eq rfl hp (by rwa [toNat_quadrant1]) (by simp [roundFun, hq]) (by simp [roundIndex, hq])
  case q2 =>
    have hq : s.i.toNat / 16 = 2 := by omega
    exact exec_step_eq rfl hp (by rwa [toNat_quadrant2]) (by simp [roundFun, hq]) (by simp [roundIndex, hq])
  case q3 =>
    have hq : s.i.toNat / 16 = 3 := by omega
    exact exec_step_eq rfl hp (by rwa [toNat_quadrant3]) (by simp [roundFun, hq]) (by simp [roundIndex, hq])

/-! ### A block under a silent host -/

/-- The host has no act left, and its requests stand at the ports as in `waiting`. -/
def HostWaits (waiting ports : Ports) (script : List HostAct) : Prop := ports = waiting ∧ script = []

/-- A host without acts keeps its requests as they are. -/
theorem hostKeeps_waits {waiting : Ports} (hrst : waiting.rst = false) : HostKeeps (HostWaits waiting) := by
  rintro s ⟨hports, hscript⟩
  rw [hostMove_of_script_nil hscript, hports]
  exact ⟨hrst, rfl, hscript⟩

/-- Under a silent host the 65 operations of a block change the registers of the compression alone (R173). -/
theorem reaches_compress_of_silent {s : State} (hs : HostSilent s) (hp : s.ph = .comp) (hi : s.i = 0#7)
    (hw : s.w = s.h) :
    Reaches 65 s fun t => ∃ w : Quad,
      t = { s with
        h := compress s.h s.m
        w := w
        i := 64#7
        fill := 0#7
        oi := if s.lk = 8#4 then 0#6 else s.oi
        ph := if s.lk = 8#4 then .out else if s.fin then .padz else .absorb } := by
  obtain ⟨hscript, hrst⟩ := hs
  refine (reaches_compress (hostKeeps_waits hrst) ⟨rfl, hscript⟩ hp hi hw).imp ?_
  rintro t ⟨heq, hports, hscript'⟩
  refine ⟨t.w, heq.trans ?_⟩
  rw [hports, hscript', hscript]

/-- Settles O42: the registers of the state that the 65 operations reach, read off one by one. -/
theorem sixtyFiveOperationsCompressTheBlock : Obligations.SixtyFiveOperationsCompressTheBlock := by
  intro s hp hi hw hsilent
  obtain ⟨_, hrun, w, rfl⟩ := reaches_compress_of_silent hsilent hp hi hw
  exact ⟨_, hrun, rfl, rfl, rfl, rfl, rfl, rfl, rfl, rfl, rfl, rfl, rfl, rfl, rfl, rfl⟩

end Sys2Proof.Machine
end

section
/-! SUPPORT. The serializer (43_serializer.md R190 to R194): the digits, the output bytes and characters, and the beats
that POP gives the host. -/

namespace Sys2Proof.Machine

/-! ### The digits -/

/-- A digit up to 9 (R192). -/
theorem hexdigit_of_le {v : BitVec 4} (h : v.toNat ≤ 9) : hexdigit v = 0x30#8 + v.setWidth 8 := if_pos h

/-- A digit from 10 (R192). -/
theorem hexdigit_of_ge {v : BitVec 4} (h : 10 ≤ v.toNat) : hexdigit v = 0x57#8 + v.setWidth 8 := if_neg (by omega)

/-- The code of a digit: neither addition of R192 wraps. -/
theorem toNat_hexdigit (v : BitVec 4) :
    (hexdigit v).toNat = if v.toNat ≤ 9 then 0x30 + v.toNat else 0x57 + v.toNat := by
  split
  · rw [hexdigit_of_le ‹_›]
    bv_omega
  · rw [hexdigit_of_ge (by omega)]
    bv_omega

/-- Settles O8: the codes from 0x30 end at 0x39, those from 0x57 begin at 0x61, and the upper-case letters lie
between. -/
theorem hexDigitIsLowercaseAscii : Obligations.HexDigitIsLowercaseAscii := by
  refine fun v => ⟨hexdigit_of_le, hexdigit_of_ge, ?character, ?notUpperCase⟩
  case character => revert v; decide
  case notUpperCase =>
    rw [toNat_hexdigit]
    split <;> omega

/-! ### The output bytes and characters -/

/-- Byte `k` of word `w` of A to D stands at place 4w + k of the digest bytes (R190, R64). -/
theorem serialize_word_getElem? (h : Quad) (w k : BitVec 2) :
    (serialize h)[4 * w.toNat + k.toNat]? = some (byteLane (h.word w) k) := by
  have hplace : (w ++ k).toNat = 4 * w.toNat + k.toNat := by revert w k; decide
  have hparts : (w ++ k).extractLsb' 2 2 = w ∧ (w ++ k).extractLsb' 0 2 = k := by revert w k; decide
  rw [← hplace, serialize_getElem?, digestByte, hparts.1, hparts.2]

/-- Settles O7: the lengths of the two renderings, and their entries by word and byte, by byte, and by character. -/
theorem outputBytesAreTheRenderings : Obligations.OutputBytesAreTheRenderings := fun h =>
  ⟨length_rendering false h, length_rendering true h, serialize_word_getElem? h, serialize_getElem? h,
    hexstr_serialize_getElem? h⟩

/-! ### POP -/

/-- The data of a beat is the entry of the rendering that the index names, so no default is taken (R193). -/
theorem beatData_eq_getD {hex : Bool} {oi : BitVec 6} (h : Quad) (ho : oi.toNat ≤ (lastBeat hex).toNat) :
    beatData h hex oi = (rendering hex h).getD oi.toNat 0 := by
  rw [List.getD_eq_getElem?_getD, rendering_getElem? h ho, Option.getD_some]

/-- The last beat, by its number. -/
theorem eq_lastBeat_iff {hex : Bool} {oi : BitVec 6} : oi = lastBeat hex ↔ oi.toNat = if hex then 31 else 15 := by
  rw [← BitVec.toNat_inj, toNat_lastBeat]

/-- Settles O23: POP serves its beat, with the data read from the rendering and the last beat known by its number. -/
theorem popReturnsTheNextBeat : Obligations.PopReturnsTheNextBeat := by
  intro s hp ho
  have hle : s.oi.toNat ≤ (lastBeat s.hexm).toNat := by rwa [toNat_lastBeat]
  have hlast : (s.oi == lastBeat s.hexm) = (s.oi.toNat == if s.hexm then 31 else 15) := by
    rw [Bool.eq_iff_iff, beq_iff_eq, beq_iff_eq, eq_lastBeat_iff]
  rw [exec_pop_served hp hle, beatData_eq_getD s.h hle, hlast]
  simp only [beq_iff_eq]
  rfl

/-! ### What gives the host a beat -/

/-- No operation but POP gives the host a beat (R194). -/
theorem exec_beats {i : Instr} {s t : State} (hi : i ≠ .pop) (h : exec i s = .next t) : t.beats = s.beats := by
  have hname : i.mnemonic ≠ "POP" := by cases i <;> simp_all [Instr.mnemonic]
  obtain ⟨-, -, -, -, -, -, -, -, -, -, -, -, hpop, -, -⟩ := registersChangeOnlyByTheirWriters i s t h
  exact (hpop hname).2

/-- POP gives the host no beat, or one in phase OUT: the rendering's entry at oi, with A to D kept (R193, R194). -/
theorem exec_pop_beats {s t : State} (h : exec .pop s = .next t) :
    t.beats = s.beats ∨
      s.ph = .out ∧ t.oi = s.oi + 1#6 ∧ t.h = s.h ∧
        ∃ last : Bool, t.beats = s.beats ++ [makeBeat last ((rendering s.hexm s.h).getD s.oi.toNat 0)] := by
  rcases exec_pop_next h with ⟨hp, ho, rfl⟩ | ⟨_, rfl⟩
  · refine .inr ⟨hp, rfl, rfl, s.oi == lastBeat s.hexm, ?_⟩
    rw [beatData_eq_getD s.h ho]
  · exact .inl rfl

/-- A CORE that serves beats performs POP on request only. -/
theorem pop_requested {s : State} (ho : outValid s = true) (h : select s = .perform .pop) : s.ports.pop = true := by
  cases hrst : s.ports.rst with
  | true => simp [select_of_rst hrst] at h
  | false =>
    cases hpop : s.ports.pop with
    | true => rfl
    | false => simp [select_of_no_pop hrst ho hpop] at h

/-- Settles O35: of the operations POP alone gives a beat, in phase OUT and on request; an illegal word and a wait give
none. -/
theorem beatsComeFromPopInPhaseOut : Obligations.BeatsComeFromPopInPhaseOut := by
  intro s t h
  rw [← hostMove_beats s, ← hostMove_ph s, ← hostMove_oi s, ← hostMove_h s, ← hostMove_hexm s]
  rcases coreMove_next h with ⟨i, hsel, _, h⟩ | ⟨_, _, rfl⟩ | ⟨_, rfl⟩
  · by_cases hi : i = .pop
    · subst hi
      exact (exec_pop_beats h).imp_right fun ⟨hp, hbeat⟩ =>
        ⟨hp, pop_requested ((outValid_iff _).mpr hp) hsel, hbeat⟩
    · exact .inl (exec_beats hi h)
  · exact .inl rfl
  · exact .inl rfl

end Sys2Proof.Machine
end

section
/-! SUPPORT. Protocol faults and progress (60_exceptions.md R210 to R216): what the sequencer performs, that from a state
with the invariant it always answers, the fault entry and the only place it comes from, and phase FAULT. -/

namespace Sys2Proof.Machine

/-! ### What the sequencer performs -/

/-- The internal operation that is enabled, with its phase and the condition on the counter. -/
theorem selectInternal_cases {s : State} {i : Instr} (h : selectInternal s = some i) :
    (s.ph = .padz ∧ s.fill ≠ 56#7 ∧ i = .padz) ∨ (s.ph = .padz ∧ s.fill = 56#7 ∧ i = .padzend) ∨
      (s.ph = .padl ∧ i = .padl) ∨ (s.ph = .comp ∧ s.i.toNat < 64 ∧ i = decodeStep (BitVec.ofNat 6 s.i.toNat)) ∨
      (s.ph = .comp ∧ s.i = 64#7 ∧ i = .feed) := by
  cases hp : s.ph with
  | idle | absorb | out | fault => simp [selectInternal_none, hp] at h
  | padz =>
    by_cases hf : s.fill = 56#7
    · cases (selectInternal_padzend hp hf).symm.trans h
      exact .inr (.inl ⟨rfl, hf, rfl⟩)
    · cases (selectInternal_padz hp hf).symm.trans h
      exact .inl ⟨rfl, hf, rfl⟩
  | padl =>
    cases (selectInternal_padl hp).symm.trans h
    exact .inr (.inr (.inl ⟨rfl, rfl⟩))
  | comp =>
    rcases lt_trichotomy s.i.toNat 64 with hi | hi | hi
    · cases (selectInternal_step hp hi).symm.trans h
      exact .inr (.inr (.inr (.inl ⟨rfl, hi, rfl⟩)))
    · have hi : s.i = 64#7 := BitVec.eq_of_toNat_eq hi
      cases (selectInternal_feed hp hi).symm.trans h
      exact .inr (.inr (.inr (.inr ⟨rfl, hi, rfl⟩)))
    · cases (selectInternal_beyond hp hi).symm.trans h

/-- No host command is an internal operation. -/
theorem selectInternal_not_command {s : State} {i : Instr} (h : selectInternal s = some i) (cw : CmdWord) :
    encode i ≠ .cmd cw := by
  rcases selectInternal_cases h with ⟨_, _, rfl⟩ | ⟨_, _, rfl⟩ | ⟨_, rfl⟩ | ⟨_, _, rfl⟩ | ⟨_, _, rfl⟩
  case inr.inr.inr.inl => simp [decodeStep_eq_iff.mp rfl]
  all_goals simp [encode]

/-- Everything the sequencer can choose to perform: a reset, the enabled internal operation, a legal command word offered
to a ready CORE, or a pop. -/
theorem select_perform_cases {s : State} {i : Instr} (h : select s = .perform i) :
    i = .rst ∨ selectInternal s = some i ∨
      (s.ports.rst = false ∧ cmdReady s = true ∧ ∃ cw, s.ports.cmd = some cw ∧ decodeCmd cw = .ok i) ∨ i = .pop := by
  cases hr : s.ports.rst with
  | true =>
    cases (select_of_rst hr).symm.trans h
    exact .inl rfl
  | false =>
    cases hi : selectInternal s with
    | some j =>
      cases (select_of_internal hr hi).symm.trans h
      exact .inr (.inl rfl)
    | none =>
      cases hc : cmdReady s with
      | true =>
        cases hw : s.ports.cmd with
        | none => cases (select_of_no_command hr hc hw).symm.trans h
        | some cw =>
          cases hd : decodeCmd cw with
          | ok j =>
            cases (select_of_command hr hc hw hd).symm.trans h
            exact .inr (.inr (.inl ⟨rfl, rfl, cw, rfl, hd⟩))
          | rejected why => cases (select_of_illegal hr hc hw hd).symm.trans h
      | false =>
        by_cases hpop : outValid s = true ∧ s.ports.pop = true
        · cases (select_of_pop hr hpop.1 hpop.2).symm.trans h
          exact .inr (.inr (.inr rfl))
        · have hw : select s = .wait := select_eq_wait_iff.mpr ⟨hr, hi, by simp [hc], by simpa using hpop⟩
          cases hw.symm.trans h

/-- A host command is performed only from its word, offered to a ready CORE with no reset applied. -/
theorem select_command {s : State} {i : Instr} {cw : CmdWord} (hi : encode i = .cmd cw) (h : select s = .perform i) :
    s.ports.rst = false ∧ cmdReady s = true ∧ s.ports.cmd = some cw := by
  rcases select_perform_cases h with rfl | hint | ⟨hr, hc, cw', hw, hd⟩ | rfl
  · cases hi
  · exact absurd hi (selectInternal_not_command hint cw)
  · cases hi.symm.trans (decodeCmd_eq_ok_iff.mp hd)
    exact ⟨hr, hc, hw⟩
  · cases hi

/-! ### Progress -/

/-- PutByte with room in the block answers a next state. -/
theorem putByte_answers {v : Byte} {np : Phase} {s : State} (h : s.fill.toNat < 64) : ∃ t, putByte v np s = .next t :=
  (putByte_stored h).imp fun _ => And.left

/-- A legal command in the ready phase that does not allow it raises BAD_PHASE (R212). -/
theorem acceptCommand_badPhase {cw : CmdWord} {ph : Phase} {effect : State → Result} {s : State}
    (hr : cmdReady s = true) (hp : s.ph ≠ ph) :
    acceptCommand cw ph effect s = .next (protocolFault .badPhase cw s.takeCmd) := by
  rw [acceptCommand, if_pos hr, if_neg hp]

/-- A legal command answers wherever its effect does in the phase that allows it; elsewhere it faults or waits. -/
theorem acceptCommand_answers {cw : CmdWord} {ph : Phase} {effect : State → Result} {s : State}
    (h : s.ph = ph → ∃ t, effect s.takeCmd = .next t) : ∃ t, acceptCommand cw ph effect s = .next t := by
  cases hr : cmdReady s with
  | false => exact ⟨_, acceptCommand_waits hr⟩
  | true =>
    by_cases hp : s.ph = ph
    · exact acceptCommand_allowed hr hp ▸ h hp
    · exact ⟨_, acceptCommand_badPhase hr hp⟩

/-- With the invariant an enabled internal operation has a successor: the counters are in the range of its phase. -/
theorem Inv.internal_answers {s : State} {i : Instr} (hs : Inv s) (h : selectInternal s = some i) :
    ∃ t, exec i s = .next t := by
  rcases selectInternal_cases h with ⟨hp, hf, rfl⟩ | ⟨hp, hf, rfl⟩ | ⟨hp, rfl⟩ | ⟨hp, hi, rfl⟩ | ⟨hp, hi, rfl⟩
  · obtain ⟨hroom, -, -⟩ := hs.padz hp
    exact exec_padz_enabled hp hf ▸ putByte_answers hroom
  · exact ⟨_, exec_padzend_enabled hp hf⟩
  · obtain ⟨hk, hfill, -⟩ := hs.padl hp
    exact exec_padl_enabled hp hk ▸ putByte_answers (s := { s with lk := s.lk + 1#4 }) (by simp only [hfill]; omega)
  · have hidx : s.i = (BitVec.ofNat 6 s.i.toNat).setWidth 7 := BitVec.eq_of_toNat_eq (by simp; omega)
    exact ⟨_, exec_decodeStep hp hidx⟩
  · exact ⟨_, exec_feed_enabled hp hi⟩

/-- With the invariant a host command answers: the bytes it may store have room. -/
theorem Inv.command_answers {s : State} {i : Instr} {cw : CmdWord} (hs : Inv s) (hi : encode i = .cmd cw) :
    ∃ t, exec i s = .next t := by
  cases i with
  | init hex =>
    rw [exec, execInit]
    exact acceptCommand_answers fun _ => ⟨_, rfl⟩
  | data d =>
    rw [exec, execData]
    exact acceptCommand_answers fun hp => putByte_answers (hs.absorb hp).1
  | final =>
    rw [exec, execFinal]
    exact acceptCommand_answers fun hp => putByte_answers (hs.absorb hp).1
  | padz | padzend | padl | blkstart | stepq0 | stepq1 | stepq2 | stepq3 | feed | pop | rst => cases hi

/-- With the invariant POP answers: the session has a beat left, or the request waits. -/
theorem Inv.pop_answers {s : State} (hs : Inv s) : ∃ t, exec .pop s = .next t := by
  by_cases hp : s.ph = .out
  · obtain ⟨-, -, -, -, hoi⟩ := hs.out hp
    exact ⟨_, exec_pop_served hp hoi⟩
  · exact ⟨s, exec_pop_waits (by simp [outValid, hp])⟩

/-- With the invariant whatever the sequencer performs answers a next state. -/
theorem Inv.perform_answers {s : State} {i : Instr} (hs : Inv s) (h : select s = .perform i) :
    ∃ t, exec i s = .next t := by
  rcases select_perform_cases h with rfl | hint | ⟨_, _, cw, _, hd⟩ | rfl
  · exact ⟨_, rfl⟩
  · exact hs.internal_answers hint
  · exact hs.command_answers (decodeCmd_eq_ok_iff.mp hd)
  · exact hs.pop_answers

/-- With the invariant CORE's part of a step answers a next state. -/
theorem Inv.coreMove_answers {s : State} (hs : Inv s) : ∃ t, coreMove s = .next t := by
  cases hsel : select s with
  | perform i => exact coreMove_of_perform hsel ▸ hs.perform_answers hsel
  | illegal cw => exact ⟨_, coreMove_of_illegal hsel⟩
  | wait => exact ⟨s, coreMove_of_wait hsel⟩

/-- Settles O38: the host's move keeps the invariant, and CORE's part answers from there. -/
theorem everyWellFormedStateSteps : Obligations.EveryWellFormedStateSteps :=
  fun _ hs => hs.after_hostMove.coreMove_answers

/-! ### Fault entry -/

/-- The cause that a faulting command word raises: the encoding is checked before the phase (R212, R213). -/
def faultCause (cw : CmdWord) : Cause := if (decodeCmd cw).instr? = none then .illegalCmd else .badPhase

/-- The acceptance of a faulting command word (R214). -/
def acceptFaulting (cw : CmdWord) (s : State) : State := protocolFault (faultCause cw) cw s.takeCmd

/-- Its four writes, and the word taken off the port. -/
theorem acceptFaulting_eq (cw : CmdWord) (s : State) :
    acceptFaulting cw s =
      { s with
        ports := { s.ports with cmd := none }
        err := true
        ecause := if (decodeCmd cw).instr? = none then 1#2 else 2#2
        einfo := cw
        ph := .fault } := by
  have hcode : (faultCause cw).code = if (decodeCmd cw).instr? = none then 1#2 else 2#2 := apply_ite ..
  rw [← hcode]
  rfl

/-- A word that decodes can fault by its phase alone. -/
theorem acceptFaulting_of_ok {s : State} {cw : CmdWord} {i : Instr} (hd : decodeCmd cw = .ok i) :
    acceptFaulting cw s = protocolFault .badPhase cw s.takeCmd := by
  rw [acceptFaulting, faultCause, hd]
  rfl

/-- A word that does not decode is illegal, whatever the phase. -/
theorem acceptFaulting_of_rejected {s : State} {cw : CmdWord} {why : DecodeError} (hd : decodeCmd cw = .rejected why) :
    acceptFaulting cw s = protocolFault .illegalCmd cw s.takeCmd := by
  rw [acceptFaulting, faultCause, hd]
  rfl

/-- INIT in phase ABSORB raises BAD_PHASE (R212). -/
theorem exec_init_badPhase {hex : Bool} {s : State} (hp : s.ph = .absorb) :
    exec (.init hex) s = .next (protocolFault .badPhase (initWord hex) s.takeCmd) := by
  rw [exec, execInit, acceptCommand_badPhase ((cmdReady_iff s).mpr (.inr hp)) (by simp [hp])]

/-- DATA in phase IDLE raises BAD_PHASE (R212). -/
theorem exec_data_badPhase {d : Byte} {s : State} (hp : s.ph = .idle) :
    exec (.data d) s = .next (protocolFault .badPhase (dataWord d) s.takeCmd) := by
  rw [exec, execData, acceptCommand_badPhase ((cmdReady_iff s).mpr (.inl hp)) (by simp [hp])]

/-- FINAL in phase IDLE raises BAD_PHASE (R212). -/
theorem exec_final_badPhase {s : State} (hp : s.ph = .idle) :
    exec .final s = .next (protocolFault .badPhase finalWord s.takeCmd) := by
  rw [exec, execFinal, acceptCommand_badPhase ((cmdReady_iff s).mpr (.inl hp)) (by simp [hp])]

/-- Settles O14: the fault entry of each command, with the number of its word. -/
theorem commandInTheWrongPhaseFaults : Obligations.CommandInTheWrongPhaseFaults := by
  refine fun s => ⟨fun hp hex => ?init, fun hp d => ?data, fun hp => exec_final_badPhase hp⟩
  case init =>
    rw [exec_init_badPhase hp, ← toNat_initWord, BitVec.ofNat_toNat, BitVec.setWidth_eq]
    rfl
  case data =>
    rw [exec_data_badPhase hp, ← toNat_dataWord, BitVec.ofNat_toNat, BitVec.setWidth_eq]
    rfl

/-- A ready CORE that performs a command out of phase makes the fault entry of its word. -/
theorem coreMove_of_badPhase {s : State} {cw : CmdWord} {i : Instr} (hr : s.ports.rst = false)
    (hc : cmdReady s = true) (hw : s.ports.cmd = some cw) (hd : decodeCmd cw = .ok i)
    (he : ∀ word, encode i = .cmd word → exec i s = .next (protocolFault .badPhase word s.takeCmd)) :
    coreMove s = .next (acceptFaulting cw s) := by
  rw [coreMove_of_perform (select_of_command hr hc hw hd), he cw (decodeCmd_eq_ok_iff.mp hd),
    acceptFaulting_of_ok hd]

/-- Settles O15: the word is illegal, or its command is out of phase. -/
theorem faultEntryMakesFourWrites : Obligations.FaultEntryMakesFourWrites := by
  intro s cw hr hc hw hfaulting
  refine ⟨acceptFaulting cw s, ?_, acceptFaulting_eq cw s, rfl, rfl, rfl, rfl⟩
  rcases hfaulting with ⟨why, hd⟩ | ⟨⟨hex, hd⟩, hp⟩ | ⟨⟨d, hd⟩ | hd, hp⟩
  · rw [coreMove_of_illegal (select_of_illegal hr hc hw hd), acceptFaulting_of_rejected hd]
  · exact coreMove_of_badPhase hr hc hw hd (by rintro _ ⟨⟩; exact exec_init_badPhase hp)
  · exact coreMove_of_badPhase hr hc hw hd (by rintro _ ⟨⟩; exact exec_data_badPhase hp)
  · exact coreMove_of_badPhase hr hc hw hd (by rintro _ ⟨⟩; exact exec_final_badPhase hp)

/-! ### Where a fault comes from -/

/-- Outside the host commands and RST no operation writes ERR. -/
theorem exec_err {i : Instr} {s t : State} (hi : i.mnemonic ∉ ["INIT", "DATA", "FINAL", "RST"])
    (h : exec i s = .next t) : t.err = s.err := by
  obtain ⟨-, -, -, -, -, -, -, -, -, hfault, -⟩ := registersChangeOnlyByTheirWriters i s t h
  exact (hfault hi).1

/-- An operation that sets ERR is a host command, and it makes the BAD_PHASE entry of its word. -/
theorem exec_raises {i : Instr} {s t : State} (h : exec i s = .next t) (hs : s.err = false) (ht : t.err = true) :
    ∃ cw, encode i = .cmd cw ∧ t = protocolFault .badPhase cw s.takeCmd := by
  cases i with
  | init hex =>
    rcases exec_init_next h with ⟨_, rfl⟩ | ⟨_, rfl⟩ | ⟨_, rfl⟩
    · simp [hs] at ht
    · exact ⟨_, rfl, rfl⟩
    · simp [hs] at ht
  | data d =>
    rcases exec_data_next h with ⟨_, _, rfl⟩ | ⟨_, _, rfl⟩ | ⟨_, rfl⟩ | ⟨_, rfl⟩
    · simp [hs] at ht
    · simp [hs] at ht
    · exact ⟨_, rfl, rfl⟩
    · simp [hs] at ht
  | final =>
    rcases exec_final_next h with ⟨_, _, rfl⟩ | ⟨_, _, rfl⟩ | ⟨_, rfl⟩ | ⟨_, rfl⟩
    · simp [hs] at ht
    · simp [hs] at ht
    · exact ⟨_, rfl, rfl⟩
    · simp [hs] at ht
  | rst => cases h; simp at ht
  | padz | padzend | padl | blkstart | stepq0 | stepq1 | stepq2 | stepq3 | feed | pop =>
    rw [exec_err (by simp [Instr.mnemonic]) h, hs] at ht
    cases ht

/-- CORE's part of a step sets ERR only by accepting a faulting word, offered to a ready CORE with no reset applied. -/
theorem coreMove_raises {s t : State} (h : coreMove s = .next t) (hs : s.err = false) (ht : t.err = true) :
    ∃ cw, s.ports.cmd = some cw ∧ cmdReady s = true ∧ s.ports.rst = false ∧ t = acceptFaulting cw s := by
  rcases coreMove_next h with ⟨i, hsel, _, h⟩ | ⟨cw, hsel, rfl⟩ | ⟨_, rfl⟩
  · obtain ⟨cw, hi, rfl⟩ := exec_raises h hs ht
    obtain ⟨hr, hc, hw⟩ := select_command hi hsel
    exact ⟨cw, hw, hc, hr, (acceptFaulting_of_ok (decodeCmd_eq_ok_iff.mpr hi)).symm⟩
  · obtain ⟨hr, hc, hw, _, hd⟩ := select_illegal hsel
    exact ⟨cw, hw, hc, hr, (acceptFaulting_of_rejected hd).symm⟩
  · simp [hs] at ht

/-- Settles O33: the host's move leaves ERR and the phase alone, and CORE's part sets ERR only at the fault entry. -/
theorem faultsComeOnlyFromAcceptedWords : Obligations.FaultsComeOnlyFromAcceptedWords := by
  intro s t h hs ht
  obtain ⟨cw, hw, hc, hr, rfl⟩ := coreMove_raises h (by simpa using hs) ht
  exact ⟨cw, hw, by simpa [cmdReady] using hc, hr, acceptFaulting_eq cw _⟩

/-! ### Phase FAULT -/

/-- Settles O32: the phase enables no internal operation and answers no request, so CORE waits unless it is reset. -/
theorem faultPhaseEnablesOnlyReset : Obligations.FaultPhaseEnablesOnlyReset := by
  intro s hp
  have hint : selectInternal s = none := selectInternal_none (.inr (.inr (.inr hp)))
  have hc : cmdReady s = false := by simp [cmdReady, hp]
  have ho : outValid s = false := by simp [outValid, hp]
  refine ⟨hint, hc, ho, fun hr => coreMove_of_wait ?wait, fun hr => coreMove_of_perform (select_of_rst hr)⟩
  case wait => exact select_eq_wait_iff.mpr ⟨hr, hint, by simp [hc], by simp [ho]⟩

end Sys2Proof.Machine
end

section
/-! SUPPORT. Reset and the end of the busy phases (70_reset_and_hazards.md R240, R251, R252): what RST leaves, and the
number of internal operations after which CORE is no longer busy. -/

namespace Sys2Proof.Machine

/-! ### RST -/

/-- Settles O24: the successor is read off field by field, and of the old state it reads only what the two states
share. -/
theorem rstReachesIdleAndForgets : Obligations.RstReachesIdleAndForgets := by
  refine ⟨fun s => ⟨resetCore s, rfl, rfl, rfl, rfl, rfl, rfl, rfl, rfl, rfl, rfl, rfl⟩, ?_⟩
  intro s s' hdraws hports hscript hbeats
  rw [exec, exec, execRst, execRst, resetCore, resetCore, hdraws, hports, hscript, hbeats]

/-! ### The internal operations still to come -/

/-- The internal operations of a last block padded from offset `fill` ≤ 56: PADZ up to offset 56, PADZEND, 8 PADL, and the
65 operations of the block (R251). -/
def lastBlockOps (fill : Nat) : Nat := (56 - fill) + 1 + 8 + 65

/-- The internal operations from offset `fill` of the zero fill: past offset 56 there is no room for the length field, so
this block is filled with zeros and compressed, and the last block follows. -/
def zeroFillOps (fill : Nat) : Nat :=
  if fill ≤ 56 then lastBlockOps fill else (64 - fill) + 65 + lastBlockOps 0

/-- The internal operations after FEED: the last block, where the message has ended and its length is not stored yet. -/
def afterFeedOps (lk : BitVec 4) (fin : Bool) : Nat := if lk ≠ 8#4 ∧ fin = true then lastBlockOps 0 else 0

/-- The number of internal operations until CORE is no longer busy. -/
def busyOps (s : State) : Nat :=
  match s.ph with
  | .padz => zeroFillOps s.fill.toNat
  | .padl => (8 - s.lk.toNat) + 65
  | .comp => (65 - s.i.toNat) + afterFeedOps s.lk s.fin
  | .idle | .absorb | .out | .fault => 0

/-- In the zero fill. -/
theorem busyOps_padz {s : State} (hp : s.ph = .padz) : busyOps s = zeroFillOps s.fill.toNat := by
  simp only [busyOps, hp]

/-- In the length field. -/
theorem busyOps_padl {s : State} (hp : s.ph = .padl) : busyOps s = (8 - s.lk.toNat) + 65 := by
  simp only [busyOps, hp]

/-- In the compression of a block. -/
theorem busyOps_comp {s : State} (hp : s.ph = .comp) :
    busyOps s = (65 - s.i.toNat) + afterFeedOps s.lk s.fin := by
  simp only [busyOps, hp]

/-- With the invariant at least one operation is still to come exactly where CORE is busy. -/
theorem Inv.busyOps_eq_zero_iff {s : State} (hs : Inv s) : busyOps s = 0 ↔ busy s = false := by
  rw [← Bool.not_eq_true, busy_iff]
  cases hp : s.ph with
  | idle | absorb | out | fault => simp [busyOps, hp]
  | padz =>
    have hpos : zeroFillOps s.fill.toNat ≠ 0 := by unfold zeroFillOps lastBlockOps; split <;> omega
    simpa [busyOps_padz hp] using hpos
  | padl => simp [busyOps_padl hp]
  | comp =>
    obtain ⟨-, hi, -⟩ := hs.comp hp
    have hpos : 65 - s.i.toNat ≠ 0 := by omega
    simp [busyOps_comp hp, hpos]

/-! ### Each internal operation is one of them -/

/-- PADZ: one zero byte, at offset 63 with the block's compression to follow. -/
theorem Inv.busyOps_after_padz {s t : State} (hs : Inv s) (h : exec .padz s = .next t) :
    busyOps s = busyOps t + 1 := by
  obtain ⟨hp, hne, ht⟩ := exec_padz_next h
  obtain ⟨_, hlk, hfin⟩ := hs.padz hp
  have hne : s.fill.toNat ≠ 56 := fun e => hne (BitVec.eq_of_toNat_eq e)
  rw [busyOps_padz hp]
  rcases ht with ⟨hf, rfl⟩ | ⟨hf, rfl⟩
  · rw [busyOps_padz rfl, storeByte_fill, toNat_fill_succ (by omega)]
    unfold zeroFillOps lastBlockOps
    split <;> split <;> omega
  · rw [busyOps_comp rfl, hf, blkStart_lk, blkStart_fin, storeByte_lk, storeByte_fin, hlk, hfin]
    rfl

/-- PADZEND. -/
theorem Inv.busyOps_after_padzend {s t : State} (hs : Inv s) (h : exec .padzend s = .next t) :
    busyOps s = busyOps t + 1 := by
  obtain ⟨hp, hf, rfl⟩ := exec_padzend_next h
  obtain ⟨_, hlk, _⟩ := hs.padz hp
  rw [busyOps_padz hp, busyOps_padl rfl, hf, hlk]
  rfl

/-- PADL: one byte of LEN, the eighth with the compression of the last block to follow. -/
theorem Inv.busyOps_after_padl {s t : State} (hs : Inv s) (h : exec .padl s = .next t) :
    busyOps s = busyOps t + 1 := by
  obtain ⟨hp, hk, ht⟩ := exec_padl_next h
  obtain ⟨_, hfill, _⟩ := hs.padl hp
  have hnext : (s.lk + 1#4).toNat = s.lk.toNat + 1 := by
    rw [BitVec.toNat_add_of_lt] <;> simp; omega
  rw [busyOps_padl hp]
  rcases ht with ⟨hf, rfl⟩ | ⟨hf, rfl⟩
  · rw [busyOps_padl rfl, storeByte_lk, hnext]
    omega
  · have hlk : s.lk = 7#4 := BitVec.eq_of_toNat_eq (by simp; omega)
    rw [busyOps_comp rfl, blkStart_lk, blkStart_fin, storeByte_lk, hlk]
    rfl

/-- A step operation: one round. -/
theorem busyOps_after_step {i : Instr} {idx : BitVec 6} {s t : State} (hi : encode i = .step idx)
    (h : exec i s = .next t) : busyOps s = busyOps t + 1 := by
  obtain ⟨hp, hidx, w, rfl⟩ := exec_step_next hi h
  have hlt : s.i.toNat < 64 := by
    rw [hidx, BitVec.toNat_setWidth_of_le (by decide)]
    exact idx.isLt
  rw [busyOps_comp hp, busyOps_comp (by exact hp), toNat_fill_succ hlt]
  dsimp only
  omega

/-- FEED: the end of a block, which is the last one, one after which the message goes on, or one after which the zero fill
begins anew. -/
theorem busyOps_after_feed {s t : State} (h : exec .feed s = .next t) : busyOps s = busyOps t + 1 := by
  obtain ⟨hp, hi, ht⟩ := exec_feed_next h
  rw [busyOps_comp hp, hi]
  rcases ht with ⟨hk, rfl⟩ | ⟨hk, hfin, rfl⟩ | ⟨hk, hfin, rfl⟩
  · simp [afterFeedOps, hk, busyOps]
  · simp [afterFeedOps, hk, hfin, busyOps, zeroFillOps, Nat.add_comm]
  · simp [afterFeedOps, hfin, busyOps]

/-- With the invariant every internal operation leaves one less to come. -/
theorem Inv.busyOps_after_internal {s t : State} {i : Instr} (hs : Inv s) (hi : selectInternal s = some i)
    (h : exec i s = .next t) : busyOps s = busyOps t + 1 := by
  rcases selectInternal_cases hi with ⟨_, _, rfl⟩ | ⟨_, _, rfl⟩ | ⟨_, rfl⟩ | ⟨_, _, rfl⟩ | ⟨_, _, rfl⟩
  · exact hs.busyOps_after_padz h
  · exact hs.busyOps_after_padzend h
  · exact hs.busyOps_after_padl h
  · exact busyOps_after_step (decodeStep_eq_iff.mp rfl) h
  · exact busyOps_after_feed h

/-! ### A silent host -/

/-- Internal operations leave the host's side of the ports alone. -/
theorem HostSilent.after_internal {s t : State} {i : Instr} (hs : HostSilent s) (hi : selectInternal s = some i)
    (h : exec i s = .next t) : HostSilent t := by
  rcases selectInternal_cases hi with ⟨_, _, rfl⟩ | ⟨_, _, rfl⟩ | ⟨_, rfl⟩ | ⟨_, _, rfl⟩ | ⟨_, _, rfl⟩
  · obtain ⟨_, _, ⟨_, rfl⟩ | ⟨_, rfl⟩⟩ := exec_padz_next h <;> exact hs
  · obtain ⟨_, _, rfl⟩ := exec_padzend_next h
    exact hs
  · obtain ⟨_, _, ⟨_, rfl⟩ | ⟨_, rfl⟩⟩ := exec_padl_next h <;> exact hs
  · obtain ⟨_, _, _, rfl⟩ := exec_step_next (decodeStep_eq_iff.mp rfl) h
    exact hs
  · obtain ⟨_, _, ⟨_, rfl⟩ | ⟨_, _, rfl⟩ | ⟨_, _, rfl⟩⟩ := exec_feed_next h <;> exact hs

/-- Under a silent host a step performs the enabled internal operation. -/
theorem HostSilent.step_of_internal {s : State} {i : Instr} (hs : HostSilent s) (hi : selectInternal s = some i) :
    step s = exec i s := by
  obtain ⟨hscript, hrst⟩ := hs
  rw [step, hostMove_of_script_nil hscript]
  exact coreMove_of_perform (select_of_internal hrst hi)

/-- While CORE is busy under a silent host, a step performs one of the operations still to come. -/
theorem Inv.step_of_busy {s : State} (hs : Inv s) (hsilent : HostSilent s) (hb : busy s = true) :
    ∃ t, step s = .next t ∧ Inv t ∧ HostSilent t ∧ busyOps s = busyOps t + 1 := by
  have hsome : selectInternal s ≠ none := fun h => by simp [hs.selectInternal_eq_none_iff.mp h] at hb
  obtain ⟨i, hi⟩ := Option.ne_none_iff_exists'.mp hsome
  obtain ⟨t, ht⟩ := hs.internal_answers hi
  exact ⟨t, (hsilent.step_of_internal hi).trans ht, hs.after_exec (selectInternal_wellFormed hi) ht,
    hsilent.after_internal hi ht, hs.busyOps_after_internal hi ht⟩

/-- Under a silent host exactly `busyOps s` steps lead to a state that is not busy. -/
theorem Inv.reaches_not_busy {s : State} (hs : Inv s) (hsilent : HostSilent s) :
    Reaches (busyOps s) s fun t => busy t = false := by
  induction hn : busyOps s generalizing s with
  | zero => exact .zero (hs.busyOps_eq_zero_iff.mp hn)
  | succ n ih =>
    have hb : busy s = true := by
      rw [← Bool.not_eq_false, ← hs.busyOps_eq_zero_iff]
      omega
    obtain ⟨t, hstep, ht, hsilent', hcount⟩ := hs.step_of_busy hsilent hb
    obtain ⟨u, hrun, hu⟩ := ih ht hsilent' (by omega)
    exact ⟨u, run_succ_eq_next_iff.mpr ⟨t, hstep, hrun⟩, hu⟩

/-! ### The bounds -/

/-- The zero fill is longest from offset 57, just past the place of the length field. -/
theorem zeroFillOps_le (fill : Nat) : zeroFillOps fill ≤ 202 := by
  unfold zeroFillOps lastBlockOps
  split <;> omega

/-- At most 202 operations are to come (R252). -/
theorem busyOps_le (s : State) : busyOps s ≤ 202 := by
  cases hp : s.ph with
  | idle | absorb | out | fault => simp [busyOps, hp]
  | padz => exact busyOps_padz hp ▸ zeroFillOps_le _
  | padl =>
    rw [busyOps_padl hp]
    omega
  | comp =>
    have hafter : afterFeedOps s.lk s.fin ≤ 130 := by unfold afterFeedOps lastBlockOps; split <;> omega
    rw [busyOps_comp hp]
    omega

/-- Before FINAL at most 65 are: CORE is busy with one block alone (R252). -/
theorem Inv.busyOps_le_of_not_fin {s : State} (hs : Inv s) (hfin : s.fin = false) : busyOps s ≤ 65 := by
  cases hp : s.ph with
  | idle | absorb | out | fault => simp [busyOps, hp]
  | padz =>
    obtain ⟨_, _, hend⟩ := hs.padz hp
    simp [hfin] at hend
  | padl =>
    obtain ⟨_, _, hend⟩ := hs.padl hp
    simp [hfin] at hend
  | comp => simp [busyOps_comp hp, afterFeedOps, hfin]

/-- Settles O45: the operations still to come are counted, and the two bounds on the count. -/
theorem busyPhasesEndWithinTheBound : Obligations.BusyPhasesEndWithinTheBound := by
  intro s hs hsilent
  obtain ⟨t, hrun, hb⟩ := hs.reaches_not_busy hsilent
  exact ⟨⟨_, t, busyOps_le s, hrun, hb⟩, fun hfin => ⟨_, t, hs.busyOps_le_of_not_fin hfin, hrun, hb⟩⟩

end Sys2Proof.Machine
end

section
/-! SUPPORT. The words that decoding rejects or reads without their free bits (30_encoding.md R105, R106), and the sample
words, each an instance of the rule of its row. -/

namespace Sys2Proof.Machine

/-! ### Words that are no operation's encoding -/

/-- The decoder's two fields of a command word written as `op` and `arg` (R91). -/
theorem op_and_arg_of_append (op : BitVec 2) (arg : Byte) :
    (op ++ arg).extractLsb' 8 2 = op ∧ (op ++ arg).extractLsb' 0 8 = arg :=
  ⟨BitVec.extractLsb'_append_eq_left .., BitVec.extractLsb'_append_eq_right ..⟩

/-- `op` = 3 is reserved, whatever the argument (R106). -/
theorem decodeCmd_reservedOp (arg : Byte) : decodeCmd (3#2 ++ arg) = .rejected .reservedOp := by
  simp [decodeCmd, op_and_arg_of_append]

/-- INIT's upper seven argument bits are reserved (R92, R106). -/
theorem decodeCmd_reservedInitBits {arg : Byte} (h : arg.extractLsb' 1 7 ≠ 0#7) :
    decodeCmd (0#2 ++ arg) = .rejected .reservedInitBits := by
  simp only [decodeCmd, op_and_arg_of_append, if_pos, if_neg h]

/-- FINAL's argument is reserved (R94, R106). -/
theorem decodeCmd_reservedFinalBits {arg : Byte} (h : arg ≠ 0#8) :
    decodeCmd (2#2 ++ arg) = .rejected .reservedFinalBits := by
  simp [decodeCmd, op_and_arg_of_append, h]

/-- The reset input wins, whether or not a pop is requested (R105). -/
theorem decodeReq_reset (pop : BitVec 1) : decodeReq (1#1 ++ pop) = .ok .rst := by revert pop; decide

/-! ### The sample words -/

/-- Settles O3: each word is the encoding of its operation, or has the reserved bits it is rejected for. -/
theorem sampleWordsDecode : Obligations.SampleWordsDecode :=
  ⟨decodeCmd_initWord true, decodeCmd_dataWord 0x31#8, decodeCmd_finalWord,
    decodeCmd_reservedOp 0#8, decodeCmd_reservedInitBits (arg := 2#8) (by decide),
    decodeCmd_reservedFinalBits (arg := 1#8) (by decide),
    decodeReq_reset 0#1, decodeReq_reset 1#1, decode_encode (i := .pop) rfl,
    decode_encode (i := .padz) rfl, decode_encode (i := .padzend) rfl, decode_encode (i := .padl) rfl,
    decode_encode (i := .feed) rfl,
    decodeStep_quadrant0 15#4, decodeStep_quadrant1 0#4, decodeStep_quadrant2 5#4, decodeStep_quadrant3 15#4⟩

end Sys2Proof.Machine
end
